-- ==== Sys2Proof/Word.lean ====
section
/-! DEFINITION. The fixed widths of the block's formats (rules R10 to R13, R101) and the sizes the document fixes (R6). -/

namespace Sys2Proof

/-- One byte of the packet or of a command payload. -/
abbrev Byte := BitVec 8

/-- AZ format, R10: an angle in 1/32 of a hundredth of a degree, 21 bits unsigned. -/
abbrev Az := BitVec 21

/-- LEN format, R11: micrometres, 31 bits unsigned. -/
abbrev Len := BitVec 31

/-- COORD format, R11: micrometres, 32 bits two's complement. -/
abbrev Coord := BitVec 32

/-- TIME format, R12: ticks, 64 bits unsigned. -/
abbrev Time := BitVec 64

/-- CH format, R13: a channel index, 4 bits unsigned. -/
abbrev Ch := BitVec 4

/-- FULL, R10: one turn in AZ units, 36000 × 32. -/
abbrev fullTurn : Nat := 1152000

/-- R162: one turn in hundredths of a degree. -/
abbrev turnHundredths : Nat := 36000

/-- ROT_MAX, R6. -/
abbrev rotMax : Nat := 35999

/-- PACKET_BYTES, R6. -/
abbrev packetBytes : Nat := 1206

/-- R8, R13: the bound of every ROM entry, the value of +1.0 in TRIG format. -/
abbrev trigOne : Nat := 65536

end Sys2Proof
end

