-- ==== Sys2Proof/Config.lean ====
section
/-! DEFINITION. The build parameters of rule R7, fixed for the life of one block (R51), and the reference set REF. -/

namespace Sys2Proof

/-- The AZ ROM's contents, a build parameter (R47): the reference table, given by its formula, or any other table of pairs
(AZ_SIN[i], AZ_COS[i]), index 0 first. -/
inductive AzRom where
  | ref
  | table (entries : List (Int × Int))
  deriving DecidableEq, Repr

/-- The build parameters, R7. DESIGN CHOICE (log 1): they are carried in the state, which no step changes, so that every
statement holds for every parameter set. -/
structure Config where
  /-- BANK_UPPER -/
  bankUpper : BitVec 16
  /-- BANK_LOWER -/
  bankLower : BitVec 16
  /-- T_DSR: ticks between two channels of a firing -/
  tDsr : Nat
  /-- T_FIRING: ticks between two firings -/
  tFiring : Nat
  /-- TS_SCALE: ticks per unit of the device timestamp -/
  tsScale : Nat
  /-- TOL: the boundary tolerance in AZ units -/
  tol : Nat
  /-- SWEEP_CAP: the sweep memory's capacity in points, `none` for UNBOUNDED -/
  sweepCap : Option Nat
  /-- (ALT_SIN[c], ALT_COS[c]) for channel c, R46 -/
  altRom : Vector (Int × Int) 16
  /-- the azimuth sine/cosine table, R47 -/
  azRom : AzRom
  deriving DecidableEq, Repr

/-- T_BLOCK, derived in R7. -/
def Config.tBlock (cfg : Config) : Nat := 2 * cfg.tFiring

/-- REF: the reference column of R7 and the ALT ROM table of R46. A test fixture (R18), the value `State.reset` carries
(DESIGN CHOICE, log 1). -/
def Config.ref : Config where
  bankUpper := 0xEEFF
  bankLower := 0xDDFF
  tDsr := 3125
  tFiring := 50000
  tsScale := 1000
  tol := 3200
  sweepCap := some 65536
  altRom := #v[
    (-16962, 63303), (1144, 65526), (-14742, 63856), (3430, 65446),
    (-12505, 64332), (5712, 65287), (-10252, 64729), (7987, 65048),
    (-7987, 65048), (10252, 64729), (-5712, 65287), (12505, 64332),
    (-3430, 65446), (14742, 63856), (-1144, 65526), (16962, 63303)]
  azRom := .ref

end Sys2Proof
end

