-- ==== Sys2Proof/Syntax.lean ====
section
/-! DEFINITION. The instructions: one constructor per row of spec/opcode_table.json, and the encoded items they stand for. -/

namespace Sys2Proof

/-- One 3-byte channel reading, R93: RAWDIST then RAWINT. -/
structure Reading where
  dist : BitVec 16
  int  : Byte
  deriving DecidableEq, Repr

/-- The phases of the sequencer, R113, in the order of their codes. -/
inductive Phase where
  /-- IDLE, R43 -/
  | idle
  /-- VAL.SIZE, R151 -/
  | valSize
  /-- VAL.HDR, R152 -/
  | valHdr
  /-- VAL.ALT, R153 -/
  | valAlt
  /-- TSLD, R167 -/
  | tsld
  /-- ROTLD, R161 -/
  | rotld
  /-- DELTA, R162 -/
  | delta
  /-- FIRBASE, R163 -/
  | firbase
  /-- FDELTA, R164 -/
  | fdelta
  /-- CHDEC, R165 -/
  | chdec
  /-- INTERP, R166 -/
  | interp
  /-- BOUNDARY, R201 -/
  | boundary
  /-- FINALIZE, R202 -/
  | finalize
  /-- EMIT.BATCH, R221 -/
  | emitBatch
  /-- EMIT.SCAN, R222 -/
  | emitScan
  /-- NEWSWEEP, R203 -/
  | newsweep
  /-- FLT.RANGE, R181 -/
  | fltRange
  /-- FLT.AZ, R182 -/
  | fltAz
  /-- AZIDX, R183 -/
  | azidx
  /-- XFORM, R184 -/
  | xform
  /-- TSTAMP, R185 -/
  | tstamp
  /-- APPEND, R204 -/
  | append
  deriving DecidableEq, Repr

/-- The causes the block reports, R230, in the order of their codes. -/
inductive Cause where
  /-- BAD_SIZE, R151 -/
  | badSize
  /-- BAD_HEADER, R152 -/
  | badHeader
  /-- BAD_ALTERNATION, R153 -/
  | badAlternation
  /-- AZ_OUT_OF_RANGE, R161 -/
  | azOutOfRange
  /-- CONFIG_ERROR, R132 -/
  | configError
  /-- NOT_RUNNING, R133 -/
  | notRunning
  /-- BAD_CMD, R131, R135 -/
  | badCmd
  /-- CFG_LOCKED, R131, R132 -/
  | cfgLocked
  /-- SWEEP_OVERFLOW, R204 -/
  | sweepOverflow
  deriving DecidableEq, Repr

/-- The instructions. A field the table calls ignored is kept as an operand, so that no bit of a command word is lost. -/
inductive Instr where
  /-- CFGWR A, D: R131 -/
  | cfgwr (a : BitVec 12) (d : BitVec 32)
  /-- INIT (A and D ignored): R132 -/
  | init (a : BitVec 12) (d : BitVec 32)
  /-- RECV LEN, payload (D ignored): R133, R105 -/
  | recv (len : BitVec 12) (d : BitVec 32) (payload : List Byte)
  /-- SETCH A (D ignored): R134 -/
  | setch (a : BitVec 12) (d : BitVec 32)
  /-- the reserved opcode 0x0: R135 -/
  | reserved0 (a : BitVec 12) (d : BitVec 32)
  /-- the reserved opcode 0x5: R135 -/
  | reserved5 (a : BitVec 12) (d : BitVec 32)
  /-- the reserved opcode 0x6: R135 -/
  | reserved6 (a : BitVec 12) (d : BitVec 32)
  /-- the reserved opcode 0x7: R135 -/
  | reserved7 (a : BitVec 12) (d : BitVec 32)
  /-- the reserved opcode 0x8: R135 -/
  | reserved8 (a : BitVec 12) (d : BitVec 32)
  /-- the reserved opcode 0x9: R135 -/
  | reserved9 (a : BitVec 12) (d : BitVec 32)
  /-- the reserved opcode 0xA: R135 -/
  | reservedA (a : BitVec 12) (d : BitVec 32)
  /-- the reserved opcode 0xB: R135 -/
  | reservedB (a : BitVec 12) (d : BitVec 32)
  /-- the reserved opcode 0xC: R135 -/
  | reservedC (a : BitVec 12) (d : BitVec 32)
  /-- the reserved opcode 0xD: R135 -/
  | reservedD (a : BitVec 12) (d : BitVec 32)
  /-- the reserved opcode 0xE: R135 -/
  | reservedE (a : BitVec 12) (d : BitVec 32)
  /-- the reserved opcode 0xF: R135 -/
  | reservedF (a : BitVec 12) (d : BitVec 32)
  /-- an upper-bank block, its header BANK_UPPER: R92, R95 -/
  | blkUpper (rot : BitVec 16) (rd : Vector Reading 32)
  /-- a lower-bank block, its header BANK_LOWER: R92, R95 -/
  | blkLower (rot : BitVec 16) (rd : Vector Reading 32)
  /-- the packet trailer: R99, R100, R167 -/
  | pktTrailer (ts : BitVec 32) (factory : BitVec 16)
  /-- phase IDLE: R43 -/
  | idle
  /-- phase VAL.SIZE: R151 -/
  | valSize
  /-- phase VAL.HDR: R152 -/
  | valHdr
  /-- phase VAL.ALT: R153 -/
  | valAlt
  /-- phase TSLD: R167 -/
  | tsld
  /-- phase ROTLD: R161 -/
  | rotld
  /-- phase DELTA: R162 -/
  | delta
  /-- phase FIRBASE: R163 -/
  | firbase
  /-- phase FDELTA: R164 -/
  | fdelta
  /-- phase CHDEC: R165 -/
  | chdec
  /-- phase INTERP: R166 -/
  | interp
  /-- phase BOUNDARY: R201 -/
  | boundary
  /-- phase FINALIZE: R202 -/
  | finalize
  /-- phase EMIT.BATCH: R221 -/
  | emitBatch
  /-- phase EMIT.SCAN: R222 -/
  | emitScan
  /-- phase NEWSWEEP: R203 -/
  | newsweep
  /-- phase FLT.RANGE: R181 -/
  | fltRange
  /-- phase FLT.AZ: R182 -/
  | fltAz
  /-- phase AZIDX: R183 -/
  | azidx
  /-- phase XFORM: R184 -/
  | xform
  /-- phase TSTAMP: R185 -/
  | tstamp
  /-- phase APPEND: R204 -/
  | append
  /-- DIAG.BAD_SIZE: R230, raised by R151 -/
  | diagBadSize
  /-- DIAG.BAD_HEADER: R230, raised by R152 -/
  | diagBadHeader
  /-- DIAG.BAD_ALTERNATION: R230, raised by R153 -/
  | diagBadAlternation
  /-- DIAG.AZ_OUT_OF_RANGE: R230, raised by R161 -/
  | diagAzOutOfRange
  /-- DIAG.CONFIG_ERROR: R230, raised by R132 -/
  | diagConfigError
  /-- DIAG.NOT_RUNNING: R230, raised by R133 -/
  | diagNotRunning
  /-- DIAG.BAD_CMD: R230, raised by R131, R135 -/
  | diagBadCmd
  /-- DIAG.CFG_LOCKED: R230, raised by R131, R132 -/
  | diagCfgLocked
  /-- DIAG.SWEEP_OVERFLOW: R230, raised by R204 -/
  | diagSweepOverflow
  deriving DecidableEq, Repr

/-- An encoded item, one constructor per format of the table: a command word with the payload that follows it (R101, R105);
the 100 bytes of a block (R92); the 6 bytes of the trailer (R91); a 5-bit phase code (R113); an 8-bit diagnostic code (R230).
Only `cmd` is an input of the hardware (log 4). -/
inductive Item where
  | cmd (word : BitVec 48) (payload : List Byte)
  | blk (bytes : List Byte)
  | pkt (bytes : List Byte)
  | seq (code : BitVec 5)
  | evt (code : BitVec 8)
  deriving DecidableEq, Repr

/-- Why the decoder rejects an item. -/
inductive DecodeError where
  /-- a RECV word whose payload is not LEN bytes long (R105) -/
  | payloadLength
  /-- a payload after a command word that takes none (R101) -/
  | payloadNotTaken
  /-- a block that is not 100 bytes long (R92) -/
  | blockLength
  /-- a block whose header is neither sentinel (R95) -/
  | blockHeader
  /-- a trailer that is not 6 bytes long (R91) -/
  | trailerLength
  /-- a phase code 10110 to 11111 (U5) -/
  | phaseCode
  /-- a diagnostic code that R230 does not list -/
  | diagCode
  deriving DecidableEq, Repr

end Sys2Proof
end

