-- ==== Sys2Proof/WellFormed.lean ====
section
/-! DEFINITION. What the encoding of an instruction demands of its operands beyond their widths. -/

namespace Sys2Proof

/-- R105: the payload of RECV is exactly LEN bytes. Every other operand is bounded by its type. -/
def Instr.wellFormed : Instr → Bool
  | .recv len _ payload => payload.length == len.toNat
  | .cfgwr _ _ | .init _ _ | .setch _ _ | .reserved0 _ _ | .reserved5 _ _ | .reserved6 _ _
  | .reserved7 _ _ | .reserved8 _ _ | .reserved9 _ _ | .reservedA _ _ | .reservedB _ _ | .reservedC _ _
  | .reservedD _ _ | .reservedE _ _ | .reservedF _ _ | .blkUpper _ _ | .blkLower _ _ | .pktTrailer _ _
  | .idle | .valSize | .valHdr | .valAlt | .tsld | .rotld
  | .delta | .firbase | .fdelta | .chdec | .interp | .boundary
  | .finalize | .emitBatch | .emitScan | .newsweep | .fltRange | .fltAz
  | .azidx | .xform | .tstamp | .append | .diagBadSize | .diagBadHeader
  | .diagBadAlternation | .diagAzOutOfRange | .diagConfigError | .diagNotRunning | .diagBadCmd | .diagCfgLocked
  | .diagSweepOverflow => true

end Sys2Proof
end

