-- ==== Sys2Proof/Decode.lean ====
section
/-! DEFINITION. The decoder, total on every item and rejecting by name, and after it the encoder (rules R91 to R102, R113, R230). -/

namespace Sys2Proof

/-- R65, R66: the unsigned integer whose bytes are listed, least significant first. -/
def leNat : List Byte → Nat
  | [] => 0
  | b :: bs => b.toNat + 256 * leNat bs

/-- The `n` low bytes of `v`, least significant first: what `leNat` reads back. -/
def leBytes : Nat → Nat → List Byte
  | 0, _ => []
  | n + 1, v => BitVec.ofNat 8 v :: leBytes n (v / 256)

/-- R113: the 5-bit code of a phase. -/
def Phase.code : Phase → BitVec 5
  | .idle => 0
  | .valSize => 1
  | .valHdr => 2
  | .valAlt => 3
  | .tsld => 4
  | .rotld => 5
  | .delta => 6
  | .firbase => 7
  | .fdelta => 8
  | .chdec => 9
  | .interp => 10
  | .boundary => 11
  | .finalize => 12
  | .emitBatch => 13
  | .emitScan => 14
  | .newsweep => 15
  | .fltRange => 16
  | .fltAz => 17
  | .azidx => 18
  | .xform => 19
  | .tstamp => 20
  | .append => 21

/-- R113: the phase a 5-bit code names. Codes 10110 to 11111 name none (U5). -/
def Phase.ofCode (code : BitVec 5) : Option Phase :=
  match code.toNat with
  | 0 => some .idle
  | 1 => some .valSize
  | 2 => some .valHdr
  | 3 => some .valAlt
  | 4 => some .tsld
  | 5 => some .rotld
  | 6 => some .delta
  | 7 => some .firbase
  | 8 => some .fdelta
  | 9 => some .chdec
  | 10 => some .interp
  | 11 => some .boundary
  | 12 => some .finalize
  | 13 => some .emitBatch
  | 14 => some .emitScan
  | 15 => some .newsweep
  | 16 => some .fltRange
  | 17 => some .fltAz
  | 18 => some .azidx
  | 19 => some .xform
  | 20 => some .tstamp
  | 21 => some .append
  | _ => none

/-- The instruction that stands for a phase's operation. -/
def Phase.instr : Phase → Instr
  | .idle => .idle
  | .valSize => .valSize
  | .valHdr => .valHdr
  | .valAlt => .valAlt
  | .tsld => .tsld
  | .rotld => .rotld
  | .delta => .delta
  | .firbase => .firbase
  | .fdelta => .fdelta
  | .chdec => .chdec
  | .interp => .interp
  | .boundary => .boundary
  | .finalize => .finalize
  | .emitBatch => .emitBatch
  | .emitScan => .emitScan
  | .newsweep => .newsweep
  | .fltRange => .fltRange
  | .fltAz => .fltAz
  | .azidx => .azidx
  | .xform => .xform
  | .tstamp => .tstamp
  | .append => .append

/-- R230: the 8-bit DIAG code of a cause. -/
def Cause.code : Cause → BitVec 8
  | .badSize => 1
  | .badHeader => 2
  | .badAlternation => 3
  | .azOutOfRange => 4
  | .configError => 5
  | .notRunning => 6
  | .badCmd => 7
  | .cfgLocked => 8
  | .sweepOverflow => 9

/-- R230: the cause an 8-bit DIAG code names, if any. -/
def Cause.ofCode (code : BitVec 8) : Option Cause :=
  match code.toNat with
  | 1 => some .badSize
  | 2 => some .badHeader
  | 3 => some .badAlternation
  | 4 => some .azOutOfRange
  | 5 => some .configError
  | 6 => some .notRunning
  | 7 => some .badCmd
  | 8 => some .cfgLocked
  | 9 => some .sweepOverflow
  | _ => none

/-- The instruction that stands for a diagnostic. -/
def Cause.instr : Cause → Instr
  | .badSize => .diagBadSize
  | .badHeader => .diagBadHeader
  | .badAlternation => .diagBadAlternation
  | .azOutOfRange => .diagAzOutOfRange
  | .configError => .diagConfigError
  | .notRunning => .diagNotRunning
  | .badCmd => .diagBadCmd
  | .cfgLocked => .diagCfgLocked
  | .sweepOverflow => .diagSweepOverflow

/-- R101: OP, bits 47 to 44 of a command word. -/
def cmdOp (w : BitVec 48) : BitVec 4 := w.extractLsb' 44 4

/-- R101: A, bits 43 to 32 of a command word. -/
def cmdA (w : BitVec 48) : BitVec 12 := w.extractLsb' 32 12

/-- R101: D, bits 31 to 0 of a command word. -/
def cmdD (w : BitVec 48) : BitVec 32 := w.extractLsb' 0 32

/-- R101: the command word with the given OP, A and D. -/
def cmdWord (op : BitVec 4) (a : BitVec 12) (d : BitVec 32) : BitVec 48 := op ++ a ++ d

/-- R101, R102, R105: a command word and the payload delivered after it. -/
def decodeCmd (w : BitVec 48) (payload : List Byte) : Except DecodeError Instr :=
  if cmdOp w = 3 then
    if payload.length = (cmdA w).toNat then .ok (.recv (cmdA w) (cmdD w) payload) else .error .payloadLength
  else if payload ≠ [] then .error .payloadNotTaken
  else .ok <|
    match (cmdOp w).toNat with
    | 1 => .cfgwr (cmdA w) (cmdD w)
    | 2 => .init (cmdA w) (cmdD w)
    | 4 => .setch (cmdA w) (cmdD w)
    | 5 => .reserved5 (cmdA w) (cmdD w)
    | 6 => .reserved6 (cmdA w) (cmdD w)
    | 7 => .reserved7 (cmdA w) (cmdD w)
    | 8 => .reserved8 (cmdA w) (cmdD w)
    | 9 => .reserved9 (cmdA w) (cmdD w)
    | 10 => .reservedA (cmdA w) (cmdD w)
    | 11 => .reservedB (cmdA w) (cmdD w)
    | 12 => .reservedC (cmdA w) (cmdD w)
    | 13 => .reservedD (cmdA w) (cmdD w)
    | 14 => .reservedE (cmdA w) (cmdD w)
    | 15 => .reservedF (cmdA w) (cmdD w)
    | _ => .reserved0 (cmdA w) (cmdD w)

/-- R93: the readings of a byte string, three bytes each. -/
def readingsOf : List Byte → Option (List Reading)
  | [] => some []
  | lo :: hi :: i :: rest => (readingsOf rest).map (⟨BitVec.ofNat 16 (leNat [lo, hi]), i⟩ :: ·)
  | _ => none

/-- R92, R95: the 100 bytes of a block. The header is compared with the two sentinels of the parameter set. -/
def decodeBlk (cfg : Config) : List Byte → Except DecodeError Instr
  | h0 :: h1 :: r0 :: r1 :: rest =>
    match readingsOf rest with
    | none => .error .blockLength
    | some rd =>
      if h : rd.toArray.size = 32 then
        if BitVec.ofNat 16 (leNat [h0, h1]) = cfg.bankUpper then
          .ok (.blkUpper (BitVec.ofNat 16 (leNat [r0, r1])) ⟨rd.toArray, h⟩)
        else if BitVec.ofNat 16 (leNat [h0, h1]) = cfg.bankLower then
          .ok (.blkLower (BitVec.ofNat 16 (leNat [r0, r1])) ⟨rd.toArray, h⟩)
        else .error .blockHeader
      else .error .blockLength
  | _ => .error .blockLength

/-- R91, R99, R100: the 6 bytes of the trailer, TS then FACTORY. -/
def decodeTrailer : List Byte → Except DecodeError Instr
  | [t0, t1, t2, t3, f0, f1] =>
    .ok (.pktTrailer (BitVec.ofNat 32 (leNat [t0, t1, t2, t3])) (BitVec.ofNat 16 (leNat [f0, f1])))
  | _ => .error .trailerLength

/-- The decoder: total on every item, rejecting by name. -/
def decode (cfg : Config) : Item → Except DecodeError Instr
  | .cmd w payload => decodeCmd w payload
  | .blk bytes => decodeBlk cfg bytes
  | .pkt bytes => decodeTrailer bytes
  | .seq code => match Phase.ofCode code with
    | some p => .ok p.instr
    | none => .error .phaseCode
  | .evt code => match Cause.ofCode code with
    | some c => .ok c.instr
    | none => .error .diagCode

/-- R93: the three bytes of a reading. -/
def readingBytes (r : Reading) : List Byte := leBytes 2 r.dist.toNat ++ [r.int]

/-- R92: the 100 bytes of a block with the given header. -/
def blockBytes (hdr rot : BitVec 16) (rd : Vector Reading 32) : List Byte :=
  leBytes 2 hdr.toNat ++ leBytes 2 rot.toNat ++ rd.toList.flatMap readingBytes

/-- R91: the 6 bytes of the trailer. -/
def trailerBytes (ts : BitVec 32) (factory : BitVec 16) : List Byte :=
  leBytes 4 ts.toNat ++ leBytes 2 factory.toNat

/-- The encoder: the item of an instruction, from the same tables. -/
def encode (cfg : Config) : Instr → Item
  | .cfgwr a d => .cmd (cmdWord 1 a d) []
  | .init a d => .cmd (cmdWord 2 a d) []
  | .recv len d payload => .cmd (cmdWord 3 len d) payload
  | .setch a d => .cmd (cmdWord 4 a d) []
  | .reserved0 a d => .cmd (cmdWord 0 a d) []
  | .reserved5 a d => .cmd (cmdWord 5 a d) []
  | .reserved6 a d => .cmd (cmdWord 6 a d) []
  | .reserved7 a d => .cmd (cmdWord 7 a d) []
  | .reserved8 a d => .cmd (cmdWord 8 a d) []
  | .reserved9 a d => .cmd (cmdWord 9 a d) []
  | .reservedA a d => .cmd (cmdWord 10 a d) []
  | .reservedB a d => .cmd (cmdWord 11 a d) []
  | .reservedC a d => .cmd (cmdWord 12 a d) []
  | .reservedD a d => .cmd (cmdWord 13 a d) []
  | .reservedE a d => .cmd (cmdWord 14 a d) []
  | .reservedF a d => .cmd (cmdWord 15 a d) []
  | .blkUpper rot rd => .blk (blockBytes cfg.bankUpper rot rd)
  | .blkLower rot rd => .blk (blockBytes cfg.bankLower rot rd)
  | .pktTrailer ts factory => .pkt (trailerBytes ts factory)
  | .idle => .seq Phase.idle.code
  | .valSize => .seq Phase.valSize.code
  | .valHdr => .seq Phase.valHdr.code
  | .valAlt => .seq Phase.valAlt.code
  | .tsld => .seq Phase.tsld.code
  | .rotld => .seq Phase.rotld.code
  | .delta => .seq Phase.delta.code
  | .firbase => .seq Phase.firbase.code
  | .fdelta => .seq Phase.fdelta.code
  | .chdec => .seq Phase.chdec.code
  | .interp => .seq Phase.interp.code
  | .boundary => .seq Phase.boundary.code
  | .finalize => .seq Phase.finalize.code
  | .emitBatch => .seq Phase.emitBatch.code
  | .emitScan => .seq Phase.emitScan.code
  | .newsweep => .seq Phase.newsweep.code
  | .fltRange => .seq Phase.fltRange.code
  | .fltAz => .seq Phase.fltAz.code
  | .azidx => .seq Phase.azidx.code
  | .xform => .seq Phase.xform.code
  | .tstamp => .seq Phase.tstamp.code
  | .append => .seq Phase.append.code
  | .diagBadSize => .evt Cause.badSize.code
  | .diagBadHeader => .evt Cause.badHeader.code
  | .diagBadAlternation => .evt Cause.badAlternation.code
  | .diagAzOutOfRange => .evt Cause.azOutOfRange.code
  | .diagConfigError => .evt Cause.configError.code
  | .diagNotRunning => .evt Cause.notRunning.code
  | .diagBadCmd => .evt Cause.badCmd.code
  | .diagCfgLocked => .evt Cause.cfgLocked.code
  | .diagSweepOverflow => .evt Cause.sweepOverflow.code

/-- The item whose `nbits` bits are `w`, bit 0 its least significant bit: 48 bits a command word, followed by LEN zero bytes
when it is RECV; 800 bits a block; 5 bits a phase code; 8 bits a diagnostic code, or, for a value R230 lists no diagnostic for, a
5-bit phase code in a whole byte (DESIGN CHOICE, log 7). -/
def itemOfWord (nbits w : Nat) : Option Item :=
  if nbits = 48 then
    let word := BitVec.ofNat 48 w
    some (.cmd word (if cmdOp word = 3 then List.replicate (cmdA word).toNat 0 else []))
  else if nbits = 800 then some (.blk (leBytes 100 w))
  else if nbits = 5 then some (.seq (BitVec.ofNat 5 w))
  else if nbits = 8 then
    if 1 ≤ w ∧ w ≤ 9 then some (.evt (BitVec.ofNat 8 w))
    else if w < 32 then some (.seq (BitVec.ofNat 5 w))
    else some (.evt (BitVec.ofNat 8 w))
  else none

/-- The instruction the decoder reads from an encoding of `nbits` bits of value `w`, with the reference bank headers. -/
def decodeTableWord (nbits w : Nat) : Option Instr :=
  match itemOfWord nbits w with
  | none => none
  | some item =>
    match decode Config.ref item with
    | .ok i => some i
    | .error _ => none

end Sys2Proof
end

