-- ==== Sys2Proof/Machine/State.lean ====
section
/-! DEFINITION. The state of the block as plain data (10_state.md), the names of its stops, and the state after reset (R52). -/

namespace Sys2Proof.Machine

/-- The ways the machine itself can stop. There is none: no command faults, blocks or hangs (R130, R233), and every packet
address is a constant inside 0 to 1205 (R68), so no access leaves the address space. -/
inductive Fault where
  deriving DecidableEq, Repr

/-- What the model does not accept. -/
inductive Refusal where
  /-- Raised by `exec` for an instruction that has no meaning yet; no instruction is left so. Safe: nothing can be proved of a
  run past it. -/
  | notModelled (mnemonic : String)
  /-- Raised by `step` for a parameter set that breaks R8 or the ranges of R7 (R8: a model must refuse it). Safe. -/
  | badParameters
  /-- Raised by `step` for a pending item that is no encoding of the table, or a RECV whose payload is not LEN bytes long
  (R105, U7: refuse). Safe: the hardware has no such input. -/
  | undecodable (why : DecodeError)
  deriving DecidableEq, Repr

/-- MODE, R31, R245. -/
inductive Mode where
  | unconfigured
  | run
  | failed
  deriving DecidableEq, Repr

/-- ACC_STATE, R35, R206. -/
inductive AccState where
  | accumulating
  | boundaryJustCrossed
  deriving DecidableEq, Repr

/-- The CalibratedPoint, R39, R112. -/
structure Point where
  x : Coord
  y : Coord
  z : Coord
  intensity : Byte
  channel : Ch
  tstamp : Time
  deriving DecidableEq, Repr

/-- A sweep memory entry, R39. -/
structure SweepEntry where
  azKey : Az
  point : Point
  deriving DecidableEq, Repr

/-- The output events, R49, R109 to R111. -/
inductive Event where
  | diag (code : BitVec 8) (info : BitVec 32)
  | batch (startTs : Time) (ovf : Bool) (points : List Point)
  | scan (channel : Ch) (points : List Point)
  deriving DecidableEq, Repr

/-- One entry of the Firing file, R40. -/
structure Firing where
  fa : Az
  az : Vector Az 16
  dist : Vector Len 16
  int : Vector Byte 16
  deriving DecidableEq, Repr

/-- The transient state of a command: the sequencer position (R42), the packet buffer (R44), the Firing file (R40), the
per-packet temporaries (R50) and the variables of the operations' pseudocode. Between commands it holds no value (R41, R43,
R44, R50), which the model shows as the one value `Work.idle` (DESIGN CHOICE, log 2). -/
structure Work where
  /-- PHASE, R42 -/
  phase : Phase
  /-- k, the block counter, R42 -/
  k : Fin 12
  /-- j, the firing-in-block counter, R42 -/
  j : Fin 2
  /-- c, the channel counter, R42 -/
  c : Fin 16
  /-- the command word in hand, R101, R130 -/
  cmd : BitVec 48
  /-- PKT, R44: the bytes that are not zero, addresses strictly rising (log 3) -/
  pkt : List Host.Cell
  /-- PKT_LEN, R44 -/
  pktLen : BitVec 12
  /-- h, R152: the header VAL.HDR(k) read -/
  hdr : BitVec 16
  /-- HDR_PREV, R50 -/
  hdrPrev : BitVec 16
  /-- TS, R50 -/
  ts : BitVec 32
  /-- FACTORY, R50 -/
  factory : BitVec 16
  /-- B[0..11], R50 -/
  b : Vector (BitVec 16) 12
  /-- D[0..11], R50 -/
  d : Vector (BitVec 16) 12
  /-- DELTA[0..23], R50 -/
  delta : Vector Az 24
  /-- FIR[0..23], R40 -/
  fir : Vector Firing 24
  /-- boundary, R201 -/
  boundary : Bool
  /-- VALID, R34 -/
  valid : Bool
  /-- IDX, R183 -/
  idx : BitVec 16
  /-- HR, R184 -/
  hr : Coord
  /-- X, R184 -/
  x : Coord
  /-- Y, R184 -/
  y : Coord
  /-- Z, R184 -/
  z : Coord
  /-- T, R185 -/
  t : Time
  deriving DecidableEq, Repr

/-- The transient state between commands: PHASE = IDLE and counters 0 (R52), everything else zero (DESIGN CHOICE, log 2). -/
def Work.idle : Work where
  phase := .idle
  k := 0
  j := 0
  c := 0
  cmd := 0
  pkt := []
  pktLen := 0
  hdr := 0
  hdrPrev := 0
  ts := 0
  factory := 0
  b := Vector.replicate 12 0
  d := Vector.replicate 12 0
  delta := Vector.replicate 24 0
  fir := Vector.replicate 24
    { fa := 0, az := Vector.replicate 16 0, dist := Vector.replicate 16 0, int := Vector.replicate 16 0 }
  boundary := false
  valid := false
  idx := 0
  hr := 0
  x := 0
  y := 0
  z := 0
  t := 0

/-- What a later step is asked to serve: the reset pin (R260), or an item. The host sends `reset` and `cmd` items only (R271);
the other items ask for one row of the table alone (DESIGN CHOICE, log 4). -/
inductive Request where
  | reset
  | item (item : Item)
  deriving DecidableEq, Repr

/-- The state of the block. -/
structure State where
  /-- the build parameters, R7, R51; no step changes them (log 1) -/
  cfg : Config
  /-- the requests still to be served, the first one next; the model's own field (log 4) -/
  inbox : List Request
  /-- MIN_RANGE, R20, R21 -/
  minRange : Len
  /-- MAX_RANGE, R20, R21 -/
  maxRange : Len
  /-- ANGLE_DISABLE_MIN, R20, R22 -/
  angleDisableMin : Az
  /-- ANGLE_DISABLE_MAX, R20, R22 -/
  angleDisableMax : Az
  /-- ANGLE3_DISABLE_MIN, R20, R22 -/
  angle3DisableMin : Az
  /-- ANGLE3_DISABLE_MAX, R20, R22 -/
  angle3DisableMax : Az
  /-- DIST_RES, R20, R27 -/
  distRes : BitVec 15
  /-- DIST_MAX, R20, R28: stored, read by no rule -/
  distMax : Len
  /-- EMIT_CTRL, R20, R29 -/
  emitCtrl : BitVec 3
  /-- ACTIVE_CH, R30 -/
  activeCh : Ch
  /-- MODE, R31 -/
  mode : Mode
  /-- FIRST_SWEEP, R32 -/
  firstSweep : Bool
  /-- SWEEP_OVF, R33 -/
  sweepOvf : Bool
  /-- ACC_STATE, R35 -/
  accState : AccState
  /-- LAST_AZ, R36 -/
  lastAz : Az
  /-- SWEEP, R37, in insertion order -/
  sweep : List SweepEntry
  /-- SWEEP_START_TS, R38 -/
  sweepStartTs : Time
  /-- OUT, R49, in order of emission -/
  out : List Event
  /-- the transient state of the command in progress -/
  work : Work
  deriving DecidableEq, Repr

/-- The state after reset, R52, with the reference parameters (log 1) and no request pending (log 4). -/
def State.reset : State where
  cfg := Config.ref
  inbox := []
  minRange := 0
  maxRange := 0
  angleDisableMin := 0
  angleDisableMax := 0
  angle3DisableMin := 0
  angle3DisableMax := 0
  distRes := 0
  distMax := 0
  emitCtrl := 0
  activeCh := 0
  mode := .unconfigured
  firstSweep := true
  sweepOvf := false
  accState := .accumulating
  lastAz := 1152000
  sweep := []
  sweepStartTs := 0
  out := []
  work := Work.idle

end Sys2Proof.Machine
end

