-- ==== Sys2Proof/Machine/Ops.lean ====
section
/-! DEFINITION. The shared operations: arithmetic primitives (R14, R15), the packet memory (R60 to R69), the sequencer
position (R42), the output stream (R49), raising a diagnostic (R230, R242), and reset (R136, R260). -/

namespace Sys2Proof.Machine

/-- R14: round to nearest with ties toward plus infinity, `floor((p + 32768) / 65536)`. Integer division by a positive number
rounds down. -/
def rnd16 (p : Int) : Int := (p + 32768) / 65536

/-- R15: `v mod m` for an integer v, never negative. -/
def wrap (v : Int) (m : Nat) : Nat := (v % (m : Int)).toNat

/-- The packet buffer's contents: the bytes that are not zero with their addresses, addresses strictly rising. -/
abbrev Memory := List Host.Cell

/-- What an address that is not listed reads as (DESIGN CHOICE, log 3). -/
def unlistedByte : Byte := 0

/-- One byte of the packet buffer. -/
def Memory.read : Memory → Nat → Byte
  | [], _ => unlistedByte
  | (b, v) :: m, a => if b = a then v else Memory.read m a

/-- Store one byte, R69's MemWrite. Storing what an unlisted address reads as removes the entry. -/
def Memory.write : Memory → Nat → Byte → Memory
  | [], a, v => if v = unlistedByte then [] else [(a, v)]
  | (b, w) :: m, a, v =>
    if a < b then (if v = unlistedByte then (b, w) :: m else (a, v) :: (b, w) :: m)
    else if a = b then (if v = unlistedByte then m else (a, v) :: m)
    else (b, w) :: Memory.write m a v

/-- Store a run of bytes from an address up. -/
def Memory.writeAll : Memory → Nat → List Byte → Memory
  | m, _, [] => m
  | m, a, v :: vs => Memory.writeAll (Memory.write m a v) (a + 1) vs

/-- The memory that holds exactly the given bytes from an address up: R69's packet load, which stores every byte of PKT. -/
def Memory.load : Nat → List Byte → Memory
  | _, [] => []
  | a, v :: vs => if v = unlistedByte then Memory.load (a + 1) vs else (a, v) :: Memory.load (a + 1) vs

/-- The canonical form from a lowest address up: addresses strictly rising and inside PKT (R44), no entry that an unlisted
address would read as. -/
def Memory.wfFrom : Nat → Memory → Bool
  | _, [] => true
  | lo, (a, v) :: m => decide (lo ≤ a) && decide (a < packetBytes) && decide (v ≠ unlistedByte) && Memory.wfFrom (a + 1) m

/-- The canonical form of the packet buffer. -/
def Memory.wf (m : Memory) : Bool := Memory.wfFrom 0 m

/-- R65: MemRead(a, n), the n bytes from PKT[a] up, little-endian. An access outside 0 to 1205 cannot be written down: every
offset is a constant of the sequencer that lies inside (R68). -/
def memRead (m : Memory) (a n : Nat) (_inside : a + n ≤ packetBytes) : Nat :=
  leNat ((List.range n).map fun i => Memory.read m (a + i))

/-- R42: the sequencer stands at phase p with counters k, j, c. -/
def State.seek (s : State) (p : Phase) (k : Fin 12) (j : Fin 2) (c : Fin 16) : State :=
  { s with work := { s.work with phase := p, k := k, j := j, c := c } }

/-- R113: PHASE holds the phase's name while its operation runs, the counters as they stand. -/
def State.enter (s : State) (p : Phase) : State := s.seek p s.work.k s.work.j s.work.c

/-- R43: a command is in progress exactly when PHASE is not IDLE. -/
def State.busy (s : State) : Bool := s.work.phase != .idle

/-- R43, R242: the command in hand is over; the block is in IDLE and the transient state holds nothing. -/
def State.endCommand (s : State) : State := { s with work := Work.idle }

/-- R130: the block takes up a command word. No value of an earlier command is seen by it (R41). -/
def State.accept (s : State) (word : BitVec 48) : State := { s with work := { Work.idle with cmd := word } }

/-- R16, R49: `emit` appends one event at the end of OUT. -/
def State.emit (s : State) (e : Event) : State := { s with out := s.out ++ [e] }

/-- R31: the code of a mode, the info of NOT_RUNNING. -/
def Mode.code : Mode → BitVec 32
  | .unconfigured => 0
  | .run => 1
  | .failed => 2

/-- The class of a cause, R230: what follows its report. -/
inductive CauseClass where
  | endsCommand
  | continues
  | fatal
  deriving DecidableEq, Repr

/-- R230, the class column. -/
def causeClass : Cause → CauseClass
  | .badSize => .endsCommand
  | .badHeader => .endsCommand
  | .badAlternation => .endsCommand
  | .azOutOfRange => .continues
  | .configError => .fatal
  | .notRunning => .endsCommand
  | .badCmd => .endsCommand
  | .cfgLocked => .endsCommand
  | .sweepOverflow => .continues

/-- R132: the configuration errors as `INIT` collects them, bit 0 the range order, bit 1 the zero resolution. -/
def State.configErrors (s : State) : BitVec 32 :=
  (if s.minRange > s.maxRange then 1 else 0) ||| (if s.distRes = 0 then 2 else 0)

/-- R96: ROT[k] = MemRead(100 × k + 2, 2). -/
def Work.rot (w : Work) (k : Fin 12) : BitVec 16 :=
  BitVec.ofNat 16 (memRead w.pkt (100 * k.val + 2) 2 (by have := k.isLt; unfold packetBytes; omega))

/-- R230, the info column: what each cause records, read from the state at the point of detection. -/
def State.info (s : State) : Cause → BitVec 32
  | .badSize => s.work.pktLen.setWidth 32
  | .badHeader => BitVec.ofNat 32 s.work.k.val
  | .badAlternation => BitVec.ofNat 32 s.work.k.val
  | .azOutOfRange => ((s.work.rot s.work.k).setWidth 32 <<< 16) ||| BitVec.ofNat 32 s.work.k.val
  | .configError => s.configErrors
  | .notRunning => s.mode.code
  | .badCmd => ((cmdOp s.work.cmd).setWidth 32 <<< 12) ||| (cmdA s.work.cmd).setWidth 32
  | .cfgLocked => (cmdOp s.work.cmd).setWidth 32
  | .sweepOverflow => 0

/-- R16, R230, R242: `raise Diag(code, info)`, the block's one form of taking an exception: the event is emitted, and then the
cause's class decides: the command ends with no other effect, or processing goes on, or MODE becomes FAILED and the command
ends. Nothing is saved and nothing is jumped to; there is no return from it (R243). -/
def State.raise (s : State) (cause : Cause) : State :=
  let told := s.emit (.diag cause.code (s.info cause))
  match causeClass cause with
  | .endsCommand => told.endCommand
  | .continues => told
  | .fatal => { told with mode := .failed }.endCommand

/-- R136, R260: the reset pin. Every state element takes its value of R52; the build parameters and the ROMs keep theirs, and
the requests still pending are the host's. -/
def State.resetPin (s : State) : State := { State.reset with cfg := s.cfg, inbox := s.inbox }

end Sys2Proof.Machine
end

