-- ==== Sys2Proof/Machine/Rom.lean ====
section
/-! DEFINITION. The two calibration ROMs (R45 to R47) and the constraints a parameter set must meet (R7, R8). -/

namespace Sys2Proof.Machine

/-- 1.0 with 64 fraction bits, the scale of the series below. -/
def fixOne : Nat := 2 ^ 64

/-- π with 64 fraction bits, rounded to nearest. -/
def fixPi : Nat := 57952155664616982739

/-- The series of sin(x)/x in Horner form, 1 − x²/(2n(2n+1)) × (1 − …), from term n on, with 64 fraction bits. -/
def sinSeries (xSquared : Nat) : Nat → Nat → Nat
  | 0, _ => fixOne
  | terms + 1, n => fixOne - xSquared * sinSeries xSquared terms (n + 1) / fixOne / ((2 * n) * (2 * n + 1))

/-- The integer nearest to 65536 × sin(i × π / 18000) for i = 0 to 9000, the first quarter turn of R47's reference table. -/
def quarterSin (i : Nat) : Nat :=
  let x := i * fixPi / 18000
  (x * sinSeries (x * x / fixOne) 14 1 / fixOne * 65536 + fixOne / 2) / fixOne

/-- R47, the reference AZ_SIN[i]: the first quarter turn mirrored and negated over the full circle. -/
def refSin (i : Nat) : Int :=
  match i / 9000 % 4 with
  | 0 => quarterSin (i % 9000)
  | 1 => quarterSin (9000 - i % 9000)
  | 2 => -(quarterSin (i % 9000) : Int)
  | _ => -(quarterSin (9000 - i % 9000) : Int)

/-- R47, the reference AZ_COS[i], a quarter turn ahead of AZ_SIN. -/
def refCos (i : Nat) : Int := refSin (i + 9000)

/-- R46: ALT_SIN[c]. -/
def altSin (cfg : Config) (c : Fin 16) : Int := cfg.altRom[c].1

/-- R46: ALT_COS[c]. -/
def altCos (cfg : Config) (c : Fin 16) : Int := cfg.altRom[c].2

/-- R47: AZ_SIN[i]. -/
def azSin (cfg : Config) (i : Nat) : Int :=
  match cfg.azRom with
  | .ref => refSin i
  | .table entries => (entries.getD i (0, 0)).1

/-- R47: AZ_COS[i]. -/
def azCos (cfg : Config) (i : Nat) : Int :=
  match cfg.azRom with
  | .ref => refCos i
  | .table entries => (entries.getD i (0, 0)).2

/-- R8: a ROM entry e satisfies −65536 ≤ e ≤ 65536; here for a pair. -/
def romPairOk (e : Int × Int) : Bool := decide (e.1.natAbs ≤ trigOne) && decide (e.2.natAbs ≤ trigOne)

/-- R7, R8, U3: the AZ ROM has 36000 entries within the bound. The reference table's entries are
(`Laws/Rom.lean` proves it). -/
def AzRom.ok : AzRom → Bool
  | .ref => true
  | .table entries => entries.length == 36000 && entries.all romPairOk

/-- R7's ranges and R8's constraints. A parameter set that breaks them is refused. -/
def paramsOk (cfg : Config) : Bool :=
  decide (cfg.bankUpper ≠ cfg.bankLower)
  && decide (cfg.tDsr < 2 ^ 20)
  && decide (1 ≤ cfg.tFiring) && decide (cfg.tFiring < 2 ^ 24)
  && decide (1 ≤ cfg.tsScale) && decide (cfg.tsScale < 2 ^ 16)
  && decide (cfg.tol < fullTurn)
  && (match cfg.sweepCap with
      | none => true
      | some cap => decide (1 ≤ cap))
  && cfg.altRom.toList.all romPairOk
  && AzRom.ok cfg.azRom

end Sys2Proof.Machine
end

