-- ==== Sys2Proof/Machine/Operands.lean ====
section
/-! DEFINITION. Operand forms: the packet's fields at their offsets (R62, R63, R95 to R100), the Firing file's entries (R40),
and the point assembled from the working registers (R39, R186). -/

namespace Sys2Proof.Machine

/-- R95: HDR[k] = MemRead(100 × k, 2). -/
def Work.header (w : Work) (k : Fin 12) : BitVec 16 :=
  BitVec.ofNat 16 (memRead w.pkt (100 * k.val) 2 (by have := k.isLt; unfold packetBytes; omega))

/-- R63: the offset of the reading of block k, firing j, channel c. -/
def readingAt (k : Fin 12) (j : Fin 2) (c : Fin 16) : Nat := 100 * k.val + 4 + 3 * (16 * j.val + c.val)

/-- R63, R68: a reading's three bytes lie inside the packet. -/
theorem readingAt_inside (k : Fin 12) (j : Fin 2) (c : Fin 16) : readingAt k j c + 3 ≤ packetBytes := by
  have := k.isLt; have := j.isLt; have := c.isLt
  unfold readingAt packetBytes; omega

/-- R97: RAWDIST of the reading, zero-extended. -/
def Work.rawDist (w : Work) (k : Fin 12) (j : Fin 2) (c : Fin 16) : BitVec 16 :=
  BitVec.ofNat 16 (memRead w.pkt (readingAt k j c) 2 (by have := readingAt_inside k j c; omega))

/-- R98: RAWINT of the reading. -/
def Work.rawInt (w : Work) (k : Fin 12) (j : Fin 2) (c : Fin 16) : Byte :=
  BitVec.ofNat 8 (memRead w.pkt (readingAt k j c + 2) 1 (by have := readingAt_inside k j c; omega))

/-- R99: TS = MemRead(1200, 4). -/
def Work.tsField (w : Work) : BitVec 32 := BitVec.ofNat 32 (memRead w.pkt 1200 4 (by decide))

/-- R100: FACTORY = MemRead(1204, 2). -/
def Work.factoryField (w : Work) : BitVec 16 := BitVec.ofNat 16 (memRead w.pkt 1204 2 (by decide))

/-- R17: the packet-wide firing index g = 2 × k + j. -/
def firingIndex (k : Fin 12) (j : Fin 2) : Fin 24 := ⟨2 * k.val + j.val, by have := k.isLt; have := j.isLt; omega⟩

/-- R42: g of the sequencer position. -/
def Work.g (w : Work) : Fin 24 := firingIndex w.k w.j

/-- R42: the Firing file entry of the sequencer position, FIR[g]. -/
def Work.firing (w : Work) : Firing := w.fir[w.g]

/-- R16: a write to the Firing file entry g. -/
def State.setFiring (s : State) (g : Fin 24) (f : Firing) : State :=
  { s with work := { s.work with fir := s.work.fir.set g f } }

/-- R186: the point of the reading in hand. -/
def Work.point (w : Work) : Point where
  x := w.x
  y := w.y
  z := w.z
  intensity := w.firing.int[w.c]
  channel := BitVec.ofNat 4 w.c.val
  tstamp := w.t

/-- R39, R186: the sweep entry of the reading in hand, AZKEY its corrected azimuth. -/
def Work.entry (w : Work) : SweepEntry where
  azKey := w.firing.az[w.c]
  point := w.point

/-- R44, R69: the packet load of RECV. PKT is written only when the declared length is 1206; it then holds exactly the payload. -/
def State.loadPacket (s : State) (len : BitVec 12) (payload : List Byte) : State :=
  { s with work := { s.work with
      pktLen := len
      pkt := if len.toNat = packetBytes then Memory.load 0 (payload.take packetBytes) else s.work.pkt } }

/-- The blocks in packet order, k = 0 to 11. -/
def blocks : List (Fin 12) := List.finRange 12

/-- The firings in packet order, g = 0 to 23, each as its block and its index in the block. -/
def firings : List (Fin 12 × Fin 2) := blocks.flatMap fun k => [(k, 0), (k, 1)]

/-- The channels in order, c = 0 to 15. -/
def channels : List (Fin 16) := List.finRange 16

end Sys2Proof.Machine
end

