-- ==== Sys2Proof/Machine/Flags.lean ====
section
/-! DEFINITION. The conditions that decide a flag or a branch: the filters (R181, R182), the boundary test (R201), the sweep
memory's capacity (R204), the EMIT_CTRL fields (R29). -/

namespace Sys2Proof.Machine

/-- R181: MIN_RANGE ≤ d ≤ MAX_RANGE, both ends inclusive. -/
def State.inRange (s : State) (d : Len) : Bool := decide (s.minRange ≤ d) && decide (d ≤ s.maxRange)

/-- R182: min ≤ a < max as plain unsigned integers; empty when min ≥ max. -/
def inWindow (lo hi a : Az) : Bool := decide (lo ≤ a) && decide (a < hi)

/-- R182: the azimuth lies in one of the two disable windows. -/
def State.masked (s : State) (a : Az) : Bool :=
  inWindow s.angleDisableMin s.angleDisableMax a || inWindow s.angle3DisableMin s.angle3DisableMax a

/-- R201: LAST_AZ > FA + TOL on integers, no wrap in the sum. -/
def State.crosses (s : State) (fa : Az) : Bool := decide (s.lastAz.toNat > fa.toNat + s.cfg.tol)

/-- R204: SWEEP.len < SWEEP_CAP, always so when the capacity is UNBOUNDED. -/
def State.hasRoom (s : State) : Bool :=
  match s.cfg.sweepCap with
  | none => true
  | some cap => decide (s.sweep.length < cap)

/-- R29: EMIT_CTRL bit 0. -/
def State.cloudEn (s : State) : Bool := s.emitCtrl.getLsbD 0

/-- R29: EMIT_CTRL bit 1. -/
def State.scanEn (s : State) : Bool := s.emitCtrl.getLsbD 1

/-- R29: EMIT_CTRL bit 2. -/
def State.singleLayer (s : State) : Bool := s.emitCtrl.getLsbD 2

end Sys2Proof.Machine
end

