-- ==== Sys2Proof/Machine/Assembler.lean ====
section
/-! DEFINITION. The Output Assembler, 45_output_assembler.md, and the packed form of a point (R112). -/

namespace Sys2Proof.Machine

/-- R222: line(ch), the entries of a channel in rising AZKEY order, equal keys in insertion order. -/
def scanLine (sweep : List SweepEntry) (ch : Ch) : List SweepEntry :=
  (sweep.filter fun e => e.point.channel == ch).insertionSort fun a b => a.azKey ≤ b.azKey

/-- R222: the SCAN event of a channel. -/
def scanEvent (sweep : List SweepEntry) (ch : Ch) : Event := .scan ch ((scanLine sweep ch).map (·.point))

/-- The channel numbers in rising order, 0 to 15. -/
def channelNumbers : List Ch := channels.map fun c => BitVec.ofNat 4 c.val

/-- EMIT.BATCH, R221: the whole sweep in insertion order. -/
def emitBatch (s : State) : State := s.emit (.batch s.sweepStartTs s.sweepOvf (s.sweep.map (·.point)))

/-- EMIT.SCAN, R222: the selected channel's line in single-layer mode, else the sixteen lines in rising channel order. -/
def emitScan (s : State) : State :=
  if s.singleLayer then s.emit (scanEvent s.sweep s.activeCh)
  else channelNumbers.foldl (fun t ch => t.emit (scanEvent s.sweep ch)) s

/-- EMIT, R220: the batch if enabled, then the scan lines if enabled. -/
def emitSweep (s : State) : State :=
  let s' := if s.cloudEn then emitBatch (s.enter .emitBatch) else s
  if s'.scanEn then emitScan (s'.enter .emitScan) else s'

/-- The meaning of EMIT.BATCH. -/
def execEmitBatch (s : State) : Host.Outcome State Fault Refusal := .next (emitBatch (s.enter .emitBatch))

/-- The meaning of EMIT.SCAN. -/
def execEmitScan (s : State) : Host.Outcome State Fault Refusal := .next (emitScan (s.enter .emitScan))

/-- R112: the packed form of a point, 24 bytes little-endian, for a platform that needs bytes. -/
def packPoint (p : Point) : List Byte :=
  leBytes 4 p.x.toNat ++ leBytes 4 p.y.toNat ++ leBytes 4 p.z.toNat ++ leBytes 8 p.tstamp.toNat
    ++ [p.intensity, p.channel.setWidth 8, 0, 0]

end Sys2Proof.Machine
end

