-- ==== Sys2Proof/Machine/Transform.lean ====
section
/-! DEFINITION. The Point Transformer and Filter, 43_filter_transform.md. -/

namespace Sys2Proof.Machine

/-- FLT.RANGE(g, c), R181: writes VALID. -/
def fltRange (s : State) : State :=
  { s with work := { s.work with valid := s.inRange s.work.firing.dist[s.work.c] } }

/-- FLT.AZ(g, c), R182: clears VALID inside a disable window, never sets it. -/
def fltAz (s : State) : State :=
  { s with work := { s.work with valid := s.work.valid && !s.masked s.work.firing.az[s.work.c] } }

/-- AZIDX(g, c), R183: the nearest hundredth of a degree, half rounding up, wrapped. -/
def azidx (s : State) : State :=
  { s with work := { s.work with
      idx := BitVec.ofNat 16 ((s.work.firing.az[s.work.c].toNat + 16) / 32 % turnHundredths) } }

/-- XFORM(g, c), R184: four products, each rounded; HR is rounded before it is used again. -/
def xform (s : State) : State :=
  let w := s.work
  let d := (w.firing.dist[w.c].toNat : Int)
  let hr : Coord := BitVec.ofInt 32 (rnd16 (d * altCos s.cfg w.c))
  { s with work := { w with
      hr := hr
      x := BitVec.ofInt 32 (rnd16 (hr.toInt * azCos s.cfg w.idx.toNat))
      y := BitVec.ofInt 32 (rnd16 (hr.toInt * azSin s.cfg w.idx.toNat))
      z := BitVec.ofInt 32 (rnd16 (d * altSin s.cfg w.c)) } }

/-- R185, R203: the time of firing g's first channel. -/
def firingTime (cfg : Config) (ts : BitVec 32) (g : Fin 24) : Nat := ts.toNat * cfg.tsScale + g.val * cfg.tFiring

/-- TSTAMP(g, c), R185. -/
def tstamp (s : State) : State :=
  { s with work := { s.work with
      t := BitVec.ofNat 64 (firingTime s.cfg s.work.ts s.work.g + s.work.c.val * s.cfg.tDsr) } }

/-- The meaning of FLT.RANGE at (g, c). -/
def execFltRange (s : State) : Host.Outcome State Fault Refusal := .next (fltRange (s.enter .fltRange))

/-- The meaning of FLT.AZ at (g, c). -/
def execFltAz (s : State) : Host.Outcome State Fault Refusal := .next (fltAz (s.enter .fltAz))

/-- The meaning of AZIDX at (g, c). -/
def execAzidx (s : State) : Host.Outcome State Fault Refusal := .next (azidx (s.enter .azidx))

/-- The meaning of XFORM at (g, c). -/
def execXform (s : State) : Host.Outcome State Fault Refusal := .next (xform (s.enter .xform))

/-- The meaning of TSTAMP at (g, c). -/
def execTstamp (s : State) : Host.Outcome State Fault Refusal := .next (tstamp (s.enter .tstamp))

end Sys2Proof.Machine
end

