-- ==== Sys2Proof/Machine/Accumulator.lean ====
section
/-! DEFINITION. The Sweep/Revolution Accumulator, 44_sweep_accumulator.md, and the loop of R133 that drives it. -/

namespace Sys2Proof.Machine

/-- BOUNDARY(g), R201. -/
def boundary (s : State) : State :=
  let crossed := s.crosses s.work.firing.fa
  let s' := { s with work := { s.work with boundary := crossed } }
  if crossed then { s' with accState := .boundaryJustCrossed } else s'

/-- FINALIZE(g), R202: the first boundary since reset only clears FIRST_SWEEP; every other one emits the sweep. -/
def finalize (s : State) : State :=
  if s.firstSweep then { s with firstSweep := false } else emitSweep s

/-- NEWSWEEP(g), R203. -/
def newsweep (s : State) : State :=
  { s with
    sweep := []
    sweepOvf := false
    sweepStartTs := BitVec.ofNat 64 (firingTime s.cfg s.work.ts s.work.g)
    accState := .accumulating }

/-- R205: LAST_AZ takes the base azimuth of the firing in hand. -/
def recordAz (s : State) : State := { s with lastAz := s.work.firing.fa }

/-- APPEND, R204: a point that does not fit is lost; the first one lost in a sweep is reported. -/
def append (s : State) : State :=
  if s.hasRoom then { s with sweep := s.sweep ++ [s.work.entry] }
  else if s.sweepOvf then s
  else { s with sweepOvf := true }.raise .sweepOverflow

/-- R133: the operations of one reading; a dropped reading goes no further (R180). -/
def processReading (s : State) (k : Fin 12) (j : Fin 2) (c : Fin 16) : State :=
  let s := fltAz ((fltRange (s.seek .fltRange k j c)).seek .fltAz k j c)
  if s.work.valid then
    let s := azidx (s.seek .azidx k j c)
    let s := xform (s.seek .xform k j c)
    let s := tstamp (s.seek .tstamp k j c)
    append (s.seek .append k j c)
  else s

/-- R133, R200: the boundary test of one firing and what follows from it, up to the record of its base azimuth. -/
def openFiring (s : State) (k : Fin 12) (j : Fin 2) : State :=
  let s := boundary (s.seek .boundary k j 0)
  let s := if s.work.boundary then
      newsweep ((finalize (s.seek .finalize k j 0)).seek .newsweep k j 0)
    else s
  recordAz s

/-- R133, R200: one firing: its boundary handling, then its sixteen channels in order. -/
def processFiring (s : State) (k : Fin 12) (j : Fin 2) : State :=
  channels.foldl (fun s c => processReading s k j c) (openFiring s k j)

/-- R133: the firings of a decoded packet in order. -/
def accumulate (s : State) : State := firings.foldl (fun s kj => processFiring s kj.1 kj.2) s

/-- The meaning of BOUNDARY at the firing index g. -/
def execBoundary (s : State) : Host.Outcome State Fault Refusal := .next (boundary (s.enter .boundary))

/-- The meaning of FINALIZE at the firing index g. EMIT is part of it (R202), the phases EMIT.BATCH and EMIT.SCAN with it. -/
def execFinalize (s : State) : Host.Outcome State Fault Refusal := .next (finalize (s.enter .finalize))

/-- The meaning of NEWSWEEP at the firing index g. -/
def execNewsweep (s : State) : Host.Outcome State Fault Refusal := .next (newsweep (s.enter .newsweep))

/-- The meaning of APPEND at (g, c). -/
def execAppend (s : State) : Host.Outcome State Fault Refusal := .next (append (s.enter .append))

end Sys2Proof.Machine
end

