-- ==== Sys2Proof/Machine/Decoder.lean ====
section
/-! DEFINITION. The Block/Firing Decoder and azimuth interpolator, 42_decoder_interpolator.md. -/

namespace Sys2Proof.Machine

/-- TSLD, R167. -/
def tsld (s : State) : State :=
  { s with work := { s.work with ts := s.work.tsField, factory := s.work.factoryField } }

/-- ROTLD(k), R161: a rotation above 35999 is reported and becomes 35999. -/
def rotld (s : State) : State :=
  let r := s.work.rot s.work.k
  let s' := if r.toNat > rotMax then s.raise .azOutOfRange else s
  { s' with work := { s'.work with b := s'.work.b.set s.work.k (if r.toNat > rotMax then BitVec.ofNat 16 rotMax else r) } }

/-- DELTA(k), R162: the rotation advance to the next block around the circle; the last block takes the one before it. -/
def delta (s : State) : State :=
  let w := s.work
  let v := if h : w.k.val + 1 < 12
    then BitVec.ofNat 16 (wrap ((w.b[w.k.val + 1].toNat : Int) - (w.b[w.k].toNat : Int)) turnHundredths)
    else w.d[10]
  { s with work := { w with d := w.d.set w.k v } }

/-- FIRBASE(k), R163: the base azimuths of the two firings of block k. -/
def firbase (s : State) : State :=
  let b := s.work.b[s.work.k].toNat
  let d := s.work.d[s.work.k].toNat
  let g0 := firingIndex s.work.k 0
  let g1 := firingIndex s.work.k 1
  let s' := s.setFiring g0 { s.work.fir[g0] with fa := BitVec.ofNat 21 (32 * b) }
  s'.setFiring g1 { s'.work.fir[g1] with fa := BitVec.ofNat 21 ((32 * b + 16 * d) % fullTurn) }

/-- FDELTA(g), R164: the azimuth advance to the next firing; the last firing takes the advance from the one before it. -/
def fdelta (s : State) : State :=
  let w := s.work
  let v := if h : w.g.val + 1 < 24
    then wrap ((w.fir[w.g.val + 1].fa.toNat : Int) - (w.fir[w.g].fa.toNat : Int)) fullTurn
    else wrap ((w.fir[23].fa.toNat : Int) - (w.fir[22].fa.toNat : Int)) fullTurn
  { s with work := { w with delta := w.delta.set w.g (BitVec.ofNat 21 v) } }

/-- CHDEC(g, c), R165: distance and intensity of one reading. -/
def chdec (s : State) : State :=
  let w := s.work
  let f := w.firing
  s.setFiring w.g { f with
    dist := f.dist.set w.c (BitVec.ofNat 31 ((w.rawDist w.k w.j w.c).toNat * s.distRes.toNat))
    int := f.int.set w.c (w.rawInt w.k w.j w.c) }

/-- R166: the azimuth correction of a channel, truncated. -/
def correction (cfg : Config) (advance : Az) (c : Fin 16) : Nat := advance.toNat * c.val * cfg.tDsr / cfg.tFiring

/-- INTERP(g, c), R166: the corrected azimuth of one reading. -/
def interp (s : State) : State :=
  let w := s.work
  let f := w.firing
  s.setFiring w.g { f with
    az := f.az.set w.c (BitVec.ofNat 21 ((f.fa.toNat + correction s.cfg w.delta[w.g] w.c) % fullTurn)) }

/-- R160, first half: the trailer, the rotations, the deltas and the base azimuths. -/
def decodeBases (s : State) : State :=
  let s := tsld (s.seek .tsld 0 0 0)
  let s := blocks.foldl (fun s k => rotld (s.seek .rotld k 0 0)) s
  let s := blocks.foldl (fun s k => delta (s.seek .delta k 0 0)) s
  let s := blocks.foldl (fun s k => firbase (s.seek .firbase k 0 0)) s
  firings.foldl (fun s kj => fdelta (s.seek .fdelta kj.1 kj.2 0)) s

/-- R160, the body of the last loop: CHDEC(g, c) and INTERP(g, c). -/
def decodeReading (s : State) (k : Fin 12) (j : Fin 2) (c : Fin 16) : State :=
  interp ((chdec (s.seek .chdec k j c)).seek .interp k j c)

/-- DECODE, R160. -/
def decodePacket (s : State) : State :=
  firings.foldl (fun s kj => channels.foldl (fun s c => decodeReading s kj.1 kj.2 c) s) (decodeBases s)

/-- The meaning of TSLD. -/
def execTsld (s : State) : Host.Outcome State Fault Refusal := .next (tsld (s.enter .tsld))

/-- The meaning of ROTLD at the block counter k. -/
def execRotld (s : State) : Host.Outcome State Fault Refusal := .next (rotld (s.enter .rotld))

/-- The meaning of DELTA at the block counter k. -/
def execDelta (s : State) : Host.Outcome State Fault Refusal := .next (delta (s.enter .delta))

/-- The meaning of FIRBASE at the block counter k. -/
def execFirbase (s : State) : Host.Outcome State Fault Refusal := .next (firbase (s.enter .firbase))

/-- The meaning of FDELTA at the firing index g. -/
def execFdelta (s : State) : Host.Outcome State Fault Refusal := .next (fdelta (s.enter .fdelta))

/-- The meaning of CHDEC at (g, c). -/
def execChdec (s : State) : Host.Outcome State Fault Refusal := .next (chdec (s.enter .chdec))

/-- The meaning of INTERP at (g, c). -/
def execInterp (s : State) : Host.Outcome State Fault Refusal := .next (interp (s.enter .interp))

end Sys2Proof.Machine
end

