-- ==== Sys2Proof/Machine/Validator.lean ====
section
/-! DEFINITION. The Packet Validator, 41_validator.md: VAL.SIZE, VAL.HDR, VAL.ALT and VALIDATE. A check that fails raises its
diagnostic, which ends the command (R154). -/

namespace Sys2Proof.Machine

/-- VAL.SIZE, R151. -/
def valSize (s : State) : State := if s.work.pktLen.toNat ≠ packetBytes then s.raise .badSize else s

/-- VAL.HDR(k), R152. -/
def valHdr (s : State) : State :=
  let h := s.work.header s.work.k
  let s' := { s with work := { s.work with hdr := h } }
  if h ≠ s.cfg.bankUpper ∧ h ≠ s.cfg.bankLower then s'.raise .badHeader else s'

/-- VAL.ALT(k), R153. -/
def valAlt (s : State) : State :=
  if 0 < s.work.k.val ∧ s.work.hdr = s.work.hdrPrev then s.raise .badAlternation
  else { s with work := { s.work with hdrPrev := s.work.hdr } }

/-- R150: the two checks of block k, the second only when the first has passed. -/
def checkBlock (s : State) (k : Fin 12) : State :=
  let s' := valHdr (s.seek .valHdr k 0 0)
  if s'.busy then valAlt (s'.seek .valAlt k 0 0) else s'

/-- VALIDATE, R150: the size, then the blocks in order; the first failure ends it. It has passed when the command is still in
progress. -/
def validate (s : State) : State :=
  blocks.foldl (fun s k => if s.busy then checkBlock s k else s) (valSize (s.seek .valSize 0 0 0))

/-- The meaning of VAL.SIZE. -/
def execValSize (s : State) : Host.Outcome State Fault Refusal := .next (valSize (s.enter .valSize))

/-- The meaning of VAL.HDR at the block counter k. -/
def execValHdr (s : State) : Host.Outcome State Fault Refusal := .next (valHdr (s.enter .valHdr))

/-- The meaning of VAL.ALT at the block counter k. -/
def execValAlt (s : State) : Host.Outcome State Fault Refusal := .next (valAlt (s.enter .valAlt))

end Sys2Proof.Machine
end

