-- ==== Sys2Proof/Machine/Commands.lean ====
section
/-! DEFINITION. The host commands, 40_host_commands.md: CFGWR, INIT, RECV, SETCH and the reserved opcodes. Each meaning takes up
its command word (R130) and leaves the block in IDLE (R43). -/

namespace Sys2Proof.Machine

/-- R20, R131: the write of the configuration register at an address, the low bits of the data word kept. -/
def writeConfig (s : State) (a : BitVec 12) (d : BitVec 32) : State :=
  match a.toNat with
  | 0 => { s with minRange := d.extractLsb' 0 31 }
  | 1 => { s with maxRange := d.extractLsb' 0 31 }
  | 2 => { s with angleDisableMin := d.extractLsb' 0 21 }
  | 3 => { s with angleDisableMax := d.extractLsb' 0 21 }
  | 4 => { s with angle3DisableMin := d.extractLsb' 0 21 }
  | 5 => { s with angle3DisableMax := d.extractLsb' 0 21 }
  | 6 => { s with distRes := d.extractLsb' 0 15 }
  | 7 => { s with distMax := d.extractLsb' 0 31 }
  | 8 => { s with emitCtrl := d.extractLsb' 0 3 }
  | _ => s

/-- CFGWR, R131: the mode check, then the address check, then the write. -/
def cfgwr (s : State) (a : BitVec 12) (d : BitVec 32) : State :=
  if s.mode ≠ .unconfigured then s.raise .cfgLocked
  else if 8 < a.toNat then s.raise .badCmd
  else (writeConfig s a d).endCommand

/-- INIT, R132: both configuration errors in one report, else MODE becomes RUN. -/
def initialise (s : State) : State :=
  if s.mode ≠ .unconfigured then s.raise .cfgLocked
  else if s.configErrors ≠ 0 then s.raise .configError
  else { s with mode := .run }.endCommand

/-- R133, from a packet that has passed VALIDATE: decode it, run its firings, return to IDLE. -/
def processPacket (s : State) : State := (accumulate (decodePacket s)).endCommand

/-- RECV, R133. -/
def receive (s : State) (len : BitVec 12) (payload : List Byte) : State :=
  if s.mode ≠ .run then s.raise .notRunning
  else
    let s := validate (s.loadPacket len payload)
    if s.busy then processPacket s else s

/-- SETCH, R134: an index above 15 changes nothing and is not reported. -/
def setChannel (s : State) (a : BitVec 12) : State :=
  (if a.toNat ≤ 15 then { s with activeCh := a.extractLsb' 0 4 } else s).endCommand

/-- A reserved opcode, R135. -/
def reserved (s : State) : State := s.raise .badCmd

/-- The meaning of CFGWR. -/
def execCfgwr (a : BitVec 12) (d : BitVec 32) (s : State) : Host.Outcome State Fault Refusal :=
  .next (cfgwr (s.accept (cmdWord 1 a d)) a d)

/-- The meaning of INIT. -/
def execInit (a : BitVec 12) (d : BitVec 32) (s : State) : Host.Outcome State Fault Refusal :=
  .next (initialise (s.accept (cmdWord 2 a d)))

/-- The meaning of RECV. -/
def execRecv (len : BitVec 12) (d : BitVec 32) (payload : List Byte) (s : State) : Host.Outcome State Fault Refusal :=
  .next (receive (s.accept (cmdWord 3 len d)) len payload)

/-- The meaning of SETCH. -/
def execSetch (a : BitVec 12) (d : BitVec 32) (s : State) : Host.Outcome State Fault Refusal :=
  .next (setChannel (s.accept (cmdWord 4 a d)) a)

/-- The meaning of the reserved opcode 0x0. -/
def execReserved0 (a : BitVec 12) (d : BitVec 32) (s : State) : Host.Outcome State Fault Refusal :=
  .next (reserved (s.accept (cmdWord 0 a d)))

/-- The meaning of the reserved opcode 0x5. -/
def execReserved5 (a : BitVec 12) (d : BitVec 32) (s : State) : Host.Outcome State Fault Refusal :=
  .next (reserved (s.accept (cmdWord 5 a d)))

/-- The meaning of the reserved opcode 0x6. -/
def execReserved6 (a : BitVec 12) (d : BitVec 32) (s : State) : Host.Outcome State Fault Refusal :=
  .next (reserved (s.accept (cmdWord 6 a d)))

/-- The meaning of the reserved opcode 0x7. -/
def execReserved7 (a : BitVec 12) (d : BitVec 32) (s : State) : Host.Outcome State Fault Refusal :=
  .next (reserved (s.accept (cmdWord 7 a d)))

/-- The meaning of the reserved opcode 0x8. -/
def execReserved8 (a : BitVec 12) (d : BitVec 32) (s : State) : Host.Outcome State Fault Refusal :=
  .next (reserved (s.accept (cmdWord 8 a d)))

/-- The meaning of the reserved opcode 0x9. -/
def execReserved9 (a : BitVec 12) (d : BitVec 32) (s : State) : Host.Outcome State Fault Refusal :=
  .next (reserved (s.accept (cmdWord 9 a d)))

/-- The meaning of the reserved opcode 0xA. -/
def execReservedA (a : BitVec 12) (d : BitVec 32) (s : State) : Host.Outcome State Fault Refusal :=
  .next (reserved (s.accept (cmdWord 10 a d)))

/-- The meaning of the reserved opcode 0xB. -/
def execReservedB (a : BitVec 12) (d : BitVec 32) (s : State) : Host.Outcome State Fault Refusal :=
  .next (reserved (s.accept (cmdWord 11 a d)))

/-- The meaning of the reserved opcode 0xC. -/
def execReservedC (a : BitVec 12) (d : BitVec 32) (s : State) : Host.Outcome State Fault Refusal :=
  .next (reserved (s.accept (cmdWord 12 a d)))

/-- The meaning of the reserved opcode 0xD. -/
def execReservedD (a : BitVec 12) (d : BitVec 32) (s : State) : Host.Outcome State Fault Refusal :=
  .next (reserved (s.accept (cmdWord 13 a d)))

/-- The meaning of the reserved opcode 0xE. -/
def execReservedE (a : BitVec 12) (d : BitVec 32) (s : State) : Host.Outcome State Fault Refusal :=
  .next (reserved (s.accept (cmdWord 14 a d)))

/-- The meaning of the reserved opcode 0xF. -/
def execReservedF (a : BitVec 12) (d : BitVec 32) (s : State) : Host.Outcome State Fault Refusal :=
  .next (reserved (s.accept (cmdWord 15 a d)))

end Sys2Proof.Machine
end

