-- ==== Sys2Proof/Machine/Events.lean ====
section
/-! DEFINITION. The diagnostics as rows of their own, R230: each row's meaning is to raise its cause with the info the state
gives (log 10). -/

namespace Sys2Proof.Machine

/-- The meaning of DIAG.BAD_SIZE. -/
def execDiagBadSize (s : State) : Host.Outcome State Fault Refusal := .next (s.raise .badSize)

/-- The meaning of DIAG.BAD_HEADER. -/
def execDiagBadHeader (s : State) : Host.Outcome State Fault Refusal := .next (s.raise .badHeader)

/-- The meaning of DIAG.BAD_ALTERNATION. -/
def execDiagBadAlternation (s : State) : Host.Outcome State Fault Refusal := .next (s.raise .badAlternation)

/-- The meaning of DIAG.AZ_OUT_OF_RANGE. -/
def execDiagAzOutOfRange (s : State) : Host.Outcome State Fault Refusal := .next (s.raise .azOutOfRange)

/-- The meaning of DIAG.CONFIG_ERROR. -/
def execDiagConfigError (s : State) : Host.Outcome State Fault Refusal := .next (s.raise .configError)

/-- The meaning of DIAG.NOT_RUNNING. -/
def execDiagNotRunning (s : State) : Host.Outcome State Fault Refusal := .next (s.raise .notRunning)

/-- The meaning of DIAG.BAD_CMD. -/
def execDiagBadCmd (s : State) : Host.Outcome State Fault Refusal := .next (s.raise .badCmd)

/-- The meaning of DIAG.CFG_LOCKED. -/
def execDiagCfgLocked (s : State) : Host.Outcome State Fault Refusal := .next (s.raise .cfgLocked)

/-- The meaning of DIAG.SWEEP_OVERFLOW. -/
def execDiagSweepOverflow (s : State) : Host.Outcome State Fault Refusal := .next (s.raise .sweepOverflow)

end Sys2Proof.Machine
end

