-- ==== Sys2Proof/Machine/Packet.lean ====
section
/-! DEFINITION. The rows of the packet format taken one at a time: a block of either bank (R92, R95) and the trailer (R99,
R100, R167). The sequencer stands afterwards where it stood (log 8, log 9). -/

namespace Sys2Proof.Machine

/-- The sequencer position of one state put into another. -/
def State.resume (s : State) (at' : Work) : State := s.seek at'.phase at'.k at'.j at'.c

/-- R160, what the decoder reads from block k alone: its rotation (R161) and its 32 readings (R165). -/
def decodeBlockFields (s : State) (k : Fin 12) : State :=
  [(0 : Fin 2), 1].foldl (fun s j => channels.foldl (fun s c => chdec (s.seek .chdec k j c)) s)
    (rotld (s.seek .rotld k 0 0))

/-- A block at the block counter k: its 100 bytes stand at their place in PKT (R62, R69), the validator checks it (R152, R153),
and, if it passes, the decoder reads its own fields, the same way for both banks (R95). -/
def placeBlock (s : State) (hdr rot : BitVec 16) (rd : Vector Reading 32) : State :=
  let k := s.work.k
  let placed := { s with work := { s.work with
    pkt := Memory.writeAll s.work.pkt (100 * k.val) (blockBytes hdr rot rd) } }
  let checked := checkBlock placed k
  if checked.busy then (decodeBlockFields checked k).resume s.work else checked

/-- The trailer: its 6 bytes stand at 1200 in PKT (R62, R69) and TSLD loads them (R167). -/
def placeTrailer (s : State) (ts : BitVec 32) (factory : BitVec 16) : State :=
  let placed := { s with work := { s.work with
    pkt := Memory.writeAll s.work.pkt 1200 (trailerBytes ts factory) } }
  (tsld (placed.enter .tsld)).resume s.work

/-- The meaning of BLK.UPPER. -/
def execBlkUpper (rot : BitVec 16) (rd : Vector Reading 32) (s : State) : Host.Outcome State Fault Refusal :=
  .next (placeBlock s s.cfg.bankUpper rot rd)

/-- The meaning of BLK.LOWER. -/
def execBlkLower (rot : BitVec 16) (rd : Vector Reading 32) (s : State) : Host.Outcome State Fault Refusal :=
  .next (placeBlock s s.cfg.bankLower rot rd)

/-- The meaning of PKT.TRAILER. -/
def execPktTrailer (ts : BitVec 32) (factory : BitVec 16) (s : State) : Host.Outcome State Fault Refusal :=
  .next (placeTrailer s ts factory)

end Sys2Proof.Machine
end

