-- ==== Sys2Proof/Machine/Sequencer.lean ====
section
/-! DEFINITION. The sequencer: where it goes from each phase, in the order R133, R150, R160 and R200 fix, and what a step takes
up next (R43, R263). -/

namespace Sys2Proof.Machine

/-- The meaning of IDLE, R43, R250: the block waits for a command and keeps all of its state. With nothing pending this is
what a step runs. -/
def execIdle (s : State) : Host.Outcome State Fault Refusal := .next s

/-- The block after block k, if any. -/
def nextBlock (k : Fin 12) : Option (Fin 12) := if h : k.val + 1 < 12 then some ⟨k.val + 1, h⟩ else none

/-- The firing after firing j of block k, if any. -/
def nextFiring (k : Fin 12) (j : Fin 2) : Option (Fin 12 × Fin 2) :=
  if j = 0 then some (k, 1) else (nextBlock k).map fun k' => (k', 0)

/-- The channel after channel c, if any. -/
def nextChannel (c : Fin 16) : Option (Fin 16) := if h : c.val + 1 < 16 then some ⟨c.val + 1, h⟩ else none

/-- From block k of a loop over the blocks: the same phase for the next block, or else the phase after the loop at 0. -/
def State.loopBlocks (s : State) (again after : Phase) : State :=
  match nextBlock s.work.k with
  | some k => s.seek again k 0 0
  | none => s.seek after 0 0 0

/-- R133, R205: the boundary handling of the firing is over; its base azimuth is recorded and its channels begin. -/
def State.startChannels (s : State) : State := (recordAz s).seek .fltRange s.work.k s.work.j 0

/-- R133: the reading is done: the next channel, or the next firing, or the end of the command. -/
def State.nextReading (s : State) : State :=
  match nextChannel s.work.c with
  | some c => s.seek .fltRange s.work.k s.work.j c
  | none =>
    match nextFiring s.work.k s.work.j with
    | some (k, j) => s.seek .boundary k j 0
    | none => s.endCommand

/-- R42, R133: where the sequencer goes when a phase's operation is done. A phase that ended the command stays in IDLE. -/
def State.advance (s : State) (done : Phase) : State :=
  if s.busy then
    match done with
    | .idle => s
    | .valSize => s.seek .valHdr 0 0 0
    | .valHdr => s.seek .valAlt s.work.k 0 0
    | .valAlt => s.loopBlocks .valHdr .tsld
    | .tsld => s.seek .rotld 0 0 0
    | .rotld => s.loopBlocks .rotld .delta
    | .delta => s.loopBlocks .delta .firbase
    | .firbase => s.loopBlocks .firbase .fdelta
    | .fdelta =>
      match nextFiring s.work.k s.work.j with
      | some (k, j) => s.seek .fdelta k j 0
      | none => s.seek .chdec 0 0 0
    | .chdec => s.enter .interp
    | .interp =>
      match nextChannel s.work.c with
      | some c => s.seek .chdec s.work.k s.work.j c
      | none =>
        match nextFiring s.work.k s.work.j with
        | some (k, j) => s.seek .chdec k j 0
        | none => s.seek .boundary 0 0 0
    | .boundary => if s.work.boundary then s.enter .finalize else s.startChannels
    | .finalize => s.enter .newsweep
    | .emitBatch => if s.scanEn then s.enter .emitScan else s.enter .newsweep
    | .emitScan => s.enter .newsweep
    | .newsweep => s.startChannels
    | .fltRange => s.enter .fltAz
    | .fltAz => if s.work.valid then s.enter .azidx else s.nextReading
    | .azidx => s.enter .xform
    | .xform => s.enter .tstamp
    | .tstamp => s.enter .append
    | .append => s.nextReading
  else s

/-- What a step has to do. -/
inductive Fetched where
  /-- the phase the sequencer stands at -/
  | phase (p : Phase)
  /-- nothing is pending -/
  | waiting
  /-- the reset pin -/
  | reset (rest : State)
  /-- an instruction, and the state with its item taken from the inbox -/
  | run (i : Instr) (rest : State)
  /-- an item the decoder rejects -/
  | rejected (why : DecodeError)
  deriving Repr

/-- What the next step does: the operation the sequencer stands at (R263: the command port accepts nothing until the block is
back in IDLE), else the first pending request. -/
def State.fetch (s : State) : Fetched :=
  if s.busy then .phase s.work.phase
  else
    match s.inbox with
    | [] => .waiting
    | .reset :: rest => .reset { s with inbox := rest }
    | .item item :: rest =>
      match decode s.cfg item with
      | .ok i => .run i { s with inbox := rest }
      | .error why => .rejected why

/-- The state whose next step runs the given item: a phase code goes where phases are fetched from, PHASE (IDLE runs when nothing
is pending); every other item becomes the first pending request of a block in IDLE. -/
def State.placeItem (s : State) : Item → State
  | .seq code =>
    match Phase.ofCode code with
    | some p => { s.enter p with inbox := if p = .idle then [] else s.inbox }
    | none => { s.enter .idle with inbox := .item (.seq code) :: s.inbox }
  | item => { s.enter .idle with inbox := .item item :: s.inbox }

end Sys2Proof.Machine
end

