-- ==== Sys2Proof/Machine/Dispatch.lean ====
section
/-! DEFINITION. One arm per row of the opcode table. -/

namespace Sys2Proof.Machine

def exec (i : Instr) (s : State) : Host.Outcome State Fault Refusal :=
  match i with
  | .cfgwr a d => Sys2Proof.Machine.execCfgwr a d s
  | .init a d => Sys2Proof.Machine.execInit a d s
  | .recv len d payload => Sys2Proof.Machine.execRecv len d payload s
  | .setch a d => Sys2Proof.Machine.execSetch a d s
  | .reserved0 a d => Sys2Proof.Machine.execReserved0 a d s
  | .reserved5 a d => Sys2Proof.Machine.execReserved5 a d s
  | .reserved6 a d => Sys2Proof.Machine.execReserved6 a d s
  | .reserved7 a d => Sys2Proof.Machine.execReserved7 a d s
  | .reserved8 a d => Sys2Proof.Machine.execReserved8 a d s
  | .reserved9 a d => Sys2Proof.Machine.execReserved9 a d s
  | .reservedA a d => Sys2Proof.Machine.execReservedA a d s
  | .reservedB a d => Sys2Proof.Machine.execReservedB a d s
  | .reservedC a d => Sys2Proof.Machine.execReservedC a d s
  | .reservedD a d => Sys2Proof.Machine.execReservedD a d s
  | .reservedE a d => Sys2Proof.Machine.execReservedE a d s
  | .reservedF a d => Sys2Proof.Machine.execReservedF a d s
  | .blkUpper rot rd => Sys2Proof.Machine.execBlkUpper rot rd s
  | .blkLower rot rd => Sys2Proof.Machine.execBlkLower rot rd s
  | .pktTrailer ts factory => Sys2Proof.Machine.execPktTrailer ts factory s
  | .idle => Sys2Proof.Machine.execIdle s
  | .valSize => Sys2Proof.Machine.execValSize s
  | .valHdr => Sys2Proof.Machine.execValHdr s
  | .valAlt => Sys2Proof.Machine.execValAlt s
  | .tsld => Sys2Proof.Machine.execTsld s
  | .rotld => Sys2Proof.Machine.execRotld s
  | .delta => Sys2Proof.Machine.execDelta s
  | .firbase => Sys2Proof.Machine.execFirbase s
  | .fdelta => Sys2Proof.Machine.execFdelta s
  | .chdec => Sys2Proof.Machine.execChdec s
  | .interp => Sys2Proof.Machine.execInterp s
  | .boundary => Sys2Proof.Machine.execBoundary s
  | .finalize => Sys2Proof.Machine.execFinalize s
  | .emitBatch => Sys2Proof.Machine.execEmitBatch s
  | .emitScan => Sys2Proof.Machine.execEmitScan s
  | .newsweep => Sys2Proof.Machine.execNewsweep s
  | .fltRange => Sys2Proof.Machine.execFltRange s
  | .fltAz => Sys2Proof.Machine.execFltAz s
  | .azidx => Sys2Proof.Machine.execAzidx s
  | .xform => Sys2Proof.Machine.execXform s
  | .tstamp => Sys2Proof.Machine.execTstamp s
  | .append => Sys2Proof.Machine.execAppend s
  | .diagBadSize => Sys2Proof.Machine.execDiagBadSize s
  | .diagBadHeader => Sys2Proof.Machine.execDiagBadHeader s
  | .diagBadAlternation => Sys2Proof.Machine.execDiagBadAlternation s
  | .diagAzOutOfRange => Sys2Proof.Machine.execDiagAzOutOfRange s
  | .diagConfigError => Sys2Proof.Machine.execDiagConfigError s
  | .diagNotRunning => Sys2Proof.Machine.execDiagNotRunning s
  | .diagBadCmd => Sys2Proof.Machine.execDiagBadCmd s
  | .diagCfgLocked => Sys2Proof.Machine.execDiagCfgLocked s
  | .diagSweepOverflow => Sys2Proof.Machine.execDiagSweepOverflow s

end Sys2Proof.Machine
end

