-- ==== Sys2Proof/Machine/Step.lean ====
section
/-! DEFINITION. One step of the machine (R5): a whole host command, or the reset pin, or, in a state that stands inside a
command, one operation of the sequence. -/

namespace Sys2Proof.Machine

/-- One step. A parameter set that breaks R8 is refused. -/
def step (s : State) : Host.Outcome State Fault Refusal :=
  if paramsOk s.cfg then
    match s.fetch with
    | .waiting => exec .idle s
    | .reset rest => .next rest.resetPin
    | .run i rest => exec i rest
    | .rejected why => .refused (.undecodable why)
    | .phase p =>
      match exec p.instr s with
      | .next s' => .next (s'.advance p)
      | .fault r => .fault r
      | .refused r => .refused r
  else .refused .badParameters

/-- The state whose next step runs the encoding of `nbits` bits with value `w`. -/
def State.withFetchWord (s : State) (nbits w : Nat) : State :=
  match itemOfWord nbits w with
  | some item => s.placeItem item
  | none => s

end Sys2Proof.Machine
end

