-- ==== Sys2Proof/Safety.lean ====
section
/-! DEFINITION. The terms the claims use: what holds of a sound state and of a block between commands (R53), which requests the
host sends (R271), what a packet's bytes say (R91 to R96), and what a command may leave unchanged. -/

namespace Sys2Proof.Machine

/-- R53 (b) to (e) and what they rest on inside a command: true of every state a step can be asked to start from. -/
structure State.Sound (s : State) : Prop where
  /-- the packet buffer is in canonical form -/
  pkt : Memory.wf s.work.pkt = true
  /-- R53 (b): SWEEP.len ≤ SWEEP_CAP -/
  sweepFits : ∀ cap, s.cfg.sweepCap = some cap → s.sweep.length ≤ cap
  /-- R53 (c): every AZKEY is a legal azimuth -/
  sweepAz : ∀ e ∈ s.sweep, e.azKey.toNat < fullTurn
  /-- R53 (d): LAST_AZ ≤ 1152000 -/
  lastAz : s.lastAz.toNat ≤ fullTurn
  /-- R161: the loaded rotations are 0 to 35999 -/
  rotations : ∀ k : Fin 12, s.work.b[k].toNat ≤ rotMax
  /-- R163, R168 (a): every base azimuth is a legal azimuth -/
  bases : ∀ g : Fin 24, s.work.fir[g].fa.toNat < fullTurn
  /-- R166, R168 (a): every corrected azimuth is a legal azimuth -/
  corrected : ∀ (g : Fin 24) (c : Fin 16), s.work.fir[g].az[c].toNat < fullTurn
  /-- R53 (e): in RUN the configuration is free of errors -/
  running : s.mode = .run → s.minRange ≤ s.maxRange ∧ 1 ≤ s.distRes.toNat

/-- R53: what holds between commands. -/
structure State.Resting (s : State) : Prop where
  sound : s.Sound
  /-- R53 (a), R41, R43: no command is in progress and the transient state holds nothing -/
  idle : s.work = Work.idle
  /-- R53 (a) -/
  accumulating : s.accState = .accumulating
  /-- R53 (d), (f), R245: outside RUN no packet has been decoded since reset -/
  notRunning : s.mode ≠ .run → s.lastAz.toNat = fullTurn
  /-- R53 (d), (f): as long as no valid packet has been processed the sweep state is that of reset -/
  fresh : s.lastAz.toNat = fullTurn →
    s.firstSweep = true ∧ s.sweepOvf = false ∧ s.sweep = [] ∧ s.sweepStartTs = 0

/-- R271: the host sends resets and command words with their payloads, nothing else. -/
def Request.fromHost : Request → Bool
  | .reset => true
  | .item (.cmd _ _) => true
  | .item (.blk _) => false
  | .item (.pkt _) => false
  | .item (.seq _) => false
  | .item (.evt _) => false

/-- The next request, if there is one, is the host's. -/
def State.hostNext (s : State) : Bool := s.inbox.head?.all Request.fromHost

/-- The next request is the reset pin. -/
def State.resetNext (s : State) : Bool := s.inbox.head? == some .reset

/-- Two states agree on the build parameters, the pending requests, the nine configuration registers, ACTIVE_CH and MODE. -/
structure SameSetup (s t : State) : Prop where
  cfg : t.cfg = s.cfg
  inbox : t.inbox = s.inbox
  minRange : t.minRange = s.minRange
  maxRange : t.maxRange = s.maxRange
  angleDisableMin : t.angleDisableMin = s.angleDisableMin
  angleDisableMax : t.angleDisableMax = s.angleDisableMax
  angle3DisableMin : t.angle3DisableMin = s.angle3DisableMin
  angle3DisableMax : t.angle3DisableMax = s.angle3DisableMax
  distRes : t.distRes = s.distRes
  distMax : t.distMax = s.distMax
  emitCtrl : t.emitCtrl = s.emitCtrl
  activeCh : t.activeCh = s.activeCh
  mode : t.mode = s.mode

/-- R43, R41, R44, R50: the command in hand is over. The block is in IDLE, and but for the transient state, which then holds no
value, it is in state `u`. -/
def State.DoneWith (t u : State) : Prop := t.work.phase = .idle ∧ t = { u with work := t.work }

/-- State `u`, whatever phase is in hand (R113: the codes only name the phases). -/
def State.EqButPhase (t u : State) : Prop := t = { u with work := { u.work with phase := t.work.phase } }

/-- R220 to R222: the events of an emission of the sweep a state holds. -/
def State.emission (s : State) : List Event :=
  (if s.cloudEn then [.batch s.sweepStartTs s.sweepOvf (s.sweep.map (·.point))] else []) ++
  (if s.scanEn then
    (if s.singleLayer then [scanEvent s.sweep s.activeCh] else channelNumbers.map (scanEvent s.sweep))
  else [])

/-- Byte i of a packet. -/
def byteOf (p : List Byte) (i : Nat) : Nat := (p.getD i 0).toNat

/-- R95: the header of block k in a packet's bytes. -/
def headerOf (p : List Byte) (k : Nat) : Nat := byteOf p (100 * k) + 256 * byteOf p (100 * k + 1)

/-- R96: the raw rotation of block k in a packet's bytes. -/
def rotationOf (p : List Byte) (k : Nat) : Nat := byteOf p (100 * k + 2) + 256 * byteOf p (100 * k + 3)

/-- R161: B[k], the rotation brought into range. -/
def clampedOf (p : List Byte) (k : Nat) : Nat := min (rotationOf p k) 35999

/-- R162: D[k], the advance to the next block around the circle; the last block takes the one before it. -/
def advanceOf (p : List Byte) (k : Nat) : Nat :=
  if k ≤ 10 then (clampedOf p (k + 1) + 36000 - clampedOf p k) % 36000
  else (clampedOf p 11 + 36000 - clampedOf p 10) % 36000

/-- R152: the header of block k is one of the two sentinels. -/
def headerKnown (cfg : Config) (p : List Byte) (k : Nat) : Prop :=
  headerOf p k = cfg.bankUpper.toNat ∨ headerOf p k = cfg.bankLower.toNat

/-- R152, R153: block k passes both of its checks. -/
def blockPasses (cfg : Config) (p : List Byte) (k : Nat) : Prop :=
  headerKnown cfg p k ∧ (0 < k → headerOf p k ≠ headerOf p (k - 1))

/-- R150: the packet is valid. -/
def packetValid (cfg : Config) (p : List Byte) : Prop := p.length = 1206 ∧ ∀ k < 12, blockPasses cfg p k

/-- R165: the offset of reading (k, j, c). -/
def readingOffset (k j c : Nat) : Nat := 100 * k + 4 + 3 * (16 * j + c)

/-- R99: the device timestamp in a packet's bytes. -/
def deviceTimeOf (p : List Byte) : Nat :=
  byteOf p 1200 + 256 * byteOf p 1201 + 65536 * byteOf p 1202 + 16777216 * byteOf p 1203

/-- R100: the factory field in a packet's bytes. -/
def factoryOf (p : List Byte) : Nat := byteOf p 1204 + 256 * byteOf p 1205

/-- R163: the base azimuth of firing j of block k. -/
def baseOf (p : List Byte) (k j : Nat) : Nat := (32 * clampedOf p k + 16 * j * advanceOf p k) % 1152000

/-- R164's closed form and R166: the corrected azimuth of reading (k, j, c). -/
def azimuthOf (cfg : Config) (p : List Byte) (k j c : Nat) : Nat :=
  (baseOf p k j + 16 * advanceOf p k * c * cfg.tDsr / cfg.tFiring) % 1152000

/-- R165: the distance of reading (k, j, c) at a given distance resolution. -/
def distanceOf (distRes : Nat) (p : List Byte) (k j c : Nat) : Nat :=
  (byteOf p (readingOffset k j c) + 256 * byteOf p (readingOffset k j c + 1)) * distRes

/-- R185, and R203 at c = 0: the time of firing j of block k, channel c. -/
def timeOf (cfg : Config) (ts k j c : Nat) : Nat := ts * cfg.tsScale + (2 * k + j) * cfg.tFiring + c * cfg.tDsr

/-- R183, R184, R186: the point of a reading at distance d, azimuth a, channel c, on exact integers. -/
def pointOf (cfg : Config) (d a : Nat) (int : Byte) (c : Fin 16) (time : Nat) : Point :=
  let idx := (a + 16) / 32 % 36000
  let hr := rnd16 ((d : Int) * altCos cfg c)
  { x := BitVec.ofInt 32 (rnd16 (hr * azCos cfg idx))
    y := BitVec.ofInt 32 (rnd16 (hr * azSin cfg idx))
    z := BitVec.ofInt 32 (rnd16 ((d : Int) * altSin cfg c))
    intensity := int, channel := BitVec.ofNat 4 c.val, tstamp := BitVec.ofNat 64 time }

/-- R180 to R182: a reading at distance d and azimuth a survives both filters. -/
def State.survives (s : State) (d a : Nat) : Bool :=
  decide (s.minRange.toNat ≤ d ∧ d ≤ s.maxRange.toNat) &&
  decide (¬ (s.angleDisableMin.toNat ≤ a ∧ a < s.angleDisableMax.toNat)) &&
  decide (¬ (s.angle3DisableMin.toNat ≤ a ∧ a < s.angle3DisableMax.toNat))

/-- R204: what offering an entry to the sweep memory leaves: stored, or lost, the first loss of a sweep reported. -/
def State.afterOffer (s : State) (e : SweepEntry) : State :=
  if (match s.cfg.sweepCap with
      | none => true
      | some cap => decide (s.sweep.length < cap)) then { s with sweep := s.sweep ++ [e] }
  else if s.sweepOvf then s
  else { s with sweepOvf := true, out := s.out ++ [.diag 9 0] }

/-- R133, R180 to R186, R204: what reading (k, j, c) of a packet leaves. -/
def State.afterReading (s : State) (p : List Byte) (k : Fin 12) (j : Fin 2) (c : Fin 16) : State :=
  let d := distanceOf s.distRes.toNat p k.val j.val c.val
  let a := azimuthOf s.cfg p k.val j.val c.val
  if s.survives d a then
    s.afterOffer {
      azKey := BitVec.ofNat 21 a
      point := pointOf s.cfg d a (p.getD (readingOffset k.val j.val c.val + 2) 0) c
        (timeOf s.cfg (deviceTimeOf p) k.val j.val c.val) }
  else s

/-- R200 to R203, R205: what the boundary handling of firing j of block k of a packet leaves. -/
def State.afterBoundary (s : State) (p : List Byte) (k : Fin 12) (j : Fin 2) : State :=
  let fa := baseOf p k.val j.val
  if fa + s.cfg.tol < s.lastAz.toNat then
    { s with
      firstSweep := false, sweepOvf := false, sweep := []
      sweepStartTs := BitVec.ofNat 64 (timeOf s.cfg (deviceTimeOf p) k.val j.val 0)
      out := s.out ++ (if s.firstSweep then [] else s.emission)
      lastAz := BitVec.ofNat 21 fa }
  else { s with lastAz := BitVec.ofNat 21 fa }

/-- R161: the reports of a packet's out-of-range rotations, in block order. -/
def rotationReports (p : List Byte) : List Event :=
  (blocks.filter fun k => decide (35999 < rotationOf p k.val)).map fun k =>
    .diag 4 (BitVec.ofNat 32 (65536 * rotationOf p k.val + k.val))

/-- R133: what a valid packet leaves of the state that outlives the command, from the packet's bytes alone: the reports of its
rotations, then firing by firing the boundary handling and the sixteen readings. -/
def State.afterPacket (s : State) (p : List Byte) : State :=
  firings.foldl (fun s kj => channels.foldl (fun s c => s.afterReading p kj.1 kj.2 c) (s.afterBoundary p kj.1 kj.2))
    { s with out := s.out ++ rotationReports p }

end Sys2Proof.Machine
end

