-- ==== Sys2Proof/Certificates/Slice0/Obligations.lean ====
section
/-! DEFINITION. The statements for the provers, from the numbered rules of spec/. A statement that says nothing of the
parameter set holds for every one. `t.DoneWith u`: the command is over and the block is in state u; `t.EqButPhase u`: state u,
whatever phase is in hand (Safety.lean). -/

open Sys2Proof Sys2Proof.Machine

/-! ## Encoding -/

/-- R101, R102, R105, R92, R91, R113, R230: decoding the encoding of a well-formed instruction gives it back, every operand at
every value, for every pair of distinct bank headers. -/
def Obligations.DecodeInvertsEncode : Prop :=
  ∀ (cfg : Config) (i : Instr), cfg.bankUpper ≠ cfg.bankLower → i.wellFormed = true →
    decode cfg (encode cfg i) = .ok i

/-- The other direction: an item has one reading, and no bit of it is dropped. -/
def Obligations.EncodeInvertsDecode : Prop :=
  ∀ (cfg : Config) (item : Item) (i : Instr), decode cfg item = .ok i → i.wellFormed = true ∧ encode cfg i = item

/-- R102, R105, R108, R130: every command word, with the payload its OP and A call for, is an instruction. -/
def Obligations.EveryCommandWordDecodes : Prop :=
  ∀ (cfg : Config) (w : BitVec 48) (payload : List Byte),
    payload.length = (if w.extractLsb' 44 4 = 3 then (w.extractLsb' 32 12).toNat else 0) →
    ∃ i, decode cfg (.cmd w payload) = .ok i ∧ encode cfg i = .cmd w payload

/-- R101, R102, R113, R230, R91: a few encodings written out. That `decodeTableWord` reads 8 bits of value 4 as a diagnostic and
not as a phase, and gives RECV the 1206 zero bytes that stand above the table's bits, is the model's choice (DESIGN CHOICE,
log 7), not a rule's. -/
def Obligations.ListedEncodingsDecode : Prop :=
  decodeTableWord 48 0x100107BFA480 = some (.cfgwr 1 130000000) ∧
  decodeTableWord 48 0x200000000000 = some (.init 0 0) ∧
  decodeTableWord 48 0x34B600000000 = some (.recv 1206 0 (List.replicate 1206 0)) ∧
  decodeTableWord 48 0x400300000000 = some (.setch 3 0) ∧
  decodeTableWord 48 0xF00000000000 = some (.reservedF 0 0) ∧
  decodeTableWord 5 0b01001 = some .chdec ∧
  decodeTableWord 8 0b00000100 = some .diagAzOutOfRange ∧
  decode Config.ref (.pkt [0x40, 0x42, 0x0F, 0x00, 0x10, 0x37]) = .ok (.pktTrailer 1000000 0x3710)

/-! ## Steps -/

/-- R5, R130, R136, in the model's form of the host (log 4): in IDLE, a step runs the instruction that the first pending item
encodes, or the reset pin, with the request taken from the inbox. -/
def Obligations.PendingRequestIsServed : Prop :=
  ∀ (s : State) (rest : List Request), paramsOk s.cfg = true → s.work.phase = .idle →
    (∀ (item : Item) (i : Instr), s.inbox = .item item :: rest → decode s.cfg item = .ok i →
      step s = exec i { s with inbox := rest }) ∧
    (s.inbox = .reset :: rest → step s = .next ({ s with inbox := rest } : State).resetPin)

/-- R42, R263: inside a command, a step runs the phase the sequencer stands at, then moves the sequencer on (log 6). -/
def Obligations.SequencerPhaseIsRun : Prop :=
  ∀ (s t : State), paramsOk s.cfg = true → s.work.phase ≠ .idle → exec s.work.phase.instr s = .next t →
    step s = .next (t.advance s.work.phase)

/-- R52, whole: what reset leaves, in the state after reset and after the reset pin in any state; the parameters and ROMs keep
their contents. -/
def Obligations.ResetGivesStatedValues : Prop :=
  (∀ s : State, s.resetPin.cfg = s.cfg) ∧
  ∀ t : State, (t = State.reset ∨ ∃ s : State, t = s.resetPin) →
    t.minRange = 0 ∧ t.maxRange = 0 ∧ t.angleDisableMin = 0 ∧ t.angleDisableMax = 0 ∧
    t.angle3DisableMin = 0 ∧ t.angle3DisableMax = 0 ∧ t.distRes = 0 ∧ t.distMax = 0 ∧ t.emitCtrl = 0 ∧
    t.activeCh = 0 ∧ t.mode = .unconfigured ∧ t.firstSweep = true ∧ t.sweepOvf = false ∧
    t.accState = .accumulating ∧ t.lastAz = 1152000 ∧ t.sweep = [] ∧ t.sweepStartTs = 0 ∧
    t.work.phase = .idle ∧ t.work.k = 0 ∧ t.work.j = 0 ∧ t.work.c = 0 ∧ t.out = []

/-- R250, R43: IDLE waits and keeps all of the state; with nothing pending that is what a step does (log 5). -/
def Obligations.IdleKeepsAllState : Prop :=
  ∀ s : State, exec .idle s = .next s ∧
    (paramsOk s.cfg = true → s.work.phase = .idle → s.inbox = [] → step s = .next s)

/-- R8, and U3 for the length of the table: a parameter set that breaks a constraint is refused. -/
def Obligations.BadParametersRefused : Prop :=
  ∀ s : State,
    (s.cfg.bankUpper = s.cfg.bankLower ∨ s.cfg.tFiring = 0 ∨ s.cfg.sweepCap = some 0 ∨
      (∃ c : Fin 16, (s.cfg.altRom[c].1.natAbs > 65536 ∨ s.cfg.altRom[c].2.natAbs > 65536)) ∨
      (∃ l, s.cfg.azRom = .table l ∧
        (l.length ≠ 36000 ∨ ∃ e ∈ l, e.1.natAbs > 65536 ∨ e.2.natAbs > 65536))) →
    step s = .refused .badParameters

/-! ## Host commands -/

/-- R131, whole: the mode check, then the address check, then one of the nine registers with the low bits kept. -/
def Obligations.CfgwrWritesOrReports : Prop :=
  ∀ (s : State) (a : BitVec 12) (d : BitVec 32), ∃ t, exec (.cfgwr a d) s = .next t ∧
    (s.mode ≠ .unconfigured → t.DoneWith { s with out := s.out ++ [.diag 8 1] }) ∧
    (s.mode = .unconfigured → 8 < a.toNat →
      t.DoneWith { s with out := s.out ++ [.diag 7 (BitVec.ofNat 32 (0x1000 + a.toNat))] }) ∧
    (s.mode = .unconfigured →
      (a.toNat = 0 → t.DoneWith { s with minRange := d.setWidth 31 }) ∧
      (a.toNat = 1 → t.DoneWith { s with maxRange := d.setWidth 31 }) ∧
      (a.toNat = 2 → t.DoneWith { s with angleDisableMin := d.setWidth 21 }) ∧
      (a.toNat = 3 → t.DoneWith { s with angleDisableMax := d.setWidth 21 }) ∧
      (a.toNat = 4 → t.DoneWith { s with angle3DisableMin := d.setWidth 21 }) ∧
      (a.toNat = 5 → t.DoneWith { s with angle3DisableMax := d.setWidth 21 }) ∧
      (a.toNat = 6 → t.DoneWith { s with distRes := d.setWidth 15 }) ∧
      (a.toNat = 7 → t.DoneWith { s with distMax := d.setWidth 31 }) ∧
      (a.toNat = 8 → t.DoneWith { s with emitCtrl := d.setWidth 3 }))

/-- R132: INIT starts the block, or reports both configuration errors in one event and fails it, or is locked out. -/
def Obligations.InitStartsOrFails : Prop :=
  ∀ (s : State) (a : BitVec 12) (d : BitVec 32), ∃ t, exec (.init a d) s = .next t ∧
    (s.mode ≠ .unconfigured → t.DoneWith { s with out := s.out ++ [.diag 8 2] }) ∧
    (s.mode = .unconfigured → s.minRange.toNat ≤ s.maxRange.toNat → s.distRes ≠ 0 → t.DoneWith { s with mode := .run }) ∧
    (s.mode = .unconfigured → s.maxRange.toNat < s.minRange.toNat ∨ s.distRes = 0 →
      t.DoneWith { s with
        mode := .failed
        out := s.out ++ [.diag 5 ((if s.maxRange.toNat < s.minRange.toNat then 1 else 0) +
          (if s.distRes = 0 then 2 else 0))] })

/-- R134, whole: in every mode an index 0 to 15 is stored, any other changes nothing, and nothing is reported. -/
def Obligations.SetchSelectsChannel : Prop :=
  ∀ (s : State) (a : BitVec 12) (d : BitVec 32), ∃ t, exec (.setch a d) s = .next t ∧
    (a.toNat ≤ 15 → t.DoneWith { s with activeCh := BitVec.ofNat 4 a.toNat }) ∧
    (15 < a.toNat → t.DoneWith s)

/-- R135, whole: each reserved opcode only reports (OP << 12) | A, in every mode. -/
def Obligations.ReservedOpcodesOnlyReport : Prop :=
  ∀ (s : State) (a : BitVec 12) (d : BitVec 32),
    let reports (op : Nat) (i : Instr) : Prop := ∃ t, exec i s = .next t ∧
      t.DoneWith { s with out := s.out ++ [.diag 7 (BitVec.ofNat 32 (4096 * op + a.toNat))] }
    reports 0 (.reserved0 a d) ∧ reports 5 (.reserved5 a d) ∧ reports 6 (.reserved6 a d) ∧
    reports 7 (.reserved7 a d) ∧ reports 8 (.reserved8 a d) ∧ reports 9 (.reserved9 a d) ∧
    reports 10 (.reservedA a d) ∧ reports 11 (.reservedB a d) ∧ reports 12 (.reservedC a d) ∧
    reports 13 (.reservedD a d) ∧ reports 14 (.reservedE a d) ∧ reports 15 (.reservedF a d)

/-- R133, R245, R151, R154: outside RUN every RECV is dropped with NOT_RUNNING; in RUN a buffer of another length is discarded
with BAD_SIZE; in both cases whatever it holds, and nothing else changes. -/
def Obligations.RecvDropsWithoutReading : Prop :=
  ∀ (s : State) (len : BitVec 12) (d : BitVec 32) (payload : List Byte),
    s.mode ≠ .run ∨ len.toNat ≠ 1206 →
    ∃ t, exec (.recv len d payload) s = .next t ∧
      (s.mode = .unconfigured → t.DoneWith { s with out := s.out ++ [.diag 6 0] }) ∧
      (s.mode = .failed → t.DoneWith { s with out := s.out ++ [.diag 6 2] }) ∧
      (s.mode = .run → t.DoneWith { s with out := s.out ++ [.diag 1 (BitVec.ofNat 32 len.toNat)] })

/-- R150, R152, R153, R154: the first block that fails a check is the one reported, with the check it fails, and nothing else
changes. -/
def Obligations.MalformedPacketDiscarded : Prop :=
  ∀ (s : State) (d : BitVec 32) (p : List Byte) (k : Nat), s.mode = .run → p.length = 1206 →
    k < 12 → (∀ i < k, blockPasses s.cfg p i) → ¬ blockPasses s.cfg p k →
    ∃ t, exec (.recv 1206 d p) s = .next t ∧
      (¬ headerKnown s.cfg p k → t.DoneWith { s with out := s.out ++ [.diag 2 (BitVec.ofNat 32 k)] }) ∧
      (headerKnown s.cfg p k → t.DoneWith { s with out := s.out ++ [.diag 3 (BitVec.ofNat 32 k)] })

/-- R133, R155, R205, R206: a valid packet is always processed to the end. The setup is untouched, the block comes back to IDLE
and to ACCUMULATING, events are only added, and LAST_AZ is the base azimuth of the packet's last firing. With an accepted
parameter set (R8) all that outlives the command, SWEEP, SWEEP_OVF, SWEEP_START_TS, FIRST_SWEEP, LAST_AZ and the events added and
their order, is what R133's loop computes from the packet's bytes (`State.afterPacket`). -/
def Obligations.ValidPacketProcessed : Prop :=
  ∀ (s : State) (d : BitVec 32) (p : List Byte), s.mode = .run → s.accState = .accumulating →
    packetValid s.cfg p →
    ∃ t, exec (.recv 1206 d p) s = .next t ∧ SameSetup s t ∧ t.work.phase = .idle ∧ t.accState = .accumulating ∧
      s.out <+: t.out ∧ t.lastAz.toNat = (32 * clampedOf p 11 + 16 * advanceOf p 11) % 1152000 ∧
      (paramsOk s.cfg = true → t.DoneWith (s.afterPacket p))

/-- R41, R44, R50: no transient value passes from one command to the next: a command is the same whatever transient state it
finds, and leaves the one value that stands for none (the model's choice, log 2). -/
def Obligations.CommandsShareNoTransientState : Prop :=
  ∀ (cfg : Config) (i : Instr) (word : BitVec 48) (payload : List Byte), encode cfg i = .cmd word payload →
    ∀ (s : State), (∀ w : Work, exec i { s with work := w } = exec i s) ∧
      ∀ t, exec i s = .next t → t.work = Work.idle

/-! ## Validator -/

/-- R151, whole: VAL.SIZE. -/
def Obligations.ValSizeChecksLength : Prop :=
  ∀ s : State, ∃ t, exec .valSize s = .next t ∧
    (s.work.pktLen.toNat = 1206 → t.EqButPhase s) ∧
    (s.work.pktLen.toNat ≠ 1206 →
      t.DoneWith { s with out := s.out ++ [.diag 1 (BitVec.ofNat 32 s.work.pktLen.toNat)] })

/-- R152, whole: VAL.HDR(k), the header the two bytes at 100k, little-endian. -/
def Obligations.ValHdrChecksSentinel : Prop :=
  ∀ (s : State) (h : BitVec 16),
    h.toNat = (Memory.read s.work.pkt (100 * s.work.k.val)).toNat +
      256 * (Memory.read s.work.pkt (100 * s.work.k.val + 1)).toNat →
    ∃ t, exec .valHdr s = .next t ∧
      (h = s.cfg.bankUpper ∨ h = s.cfg.bankLower → t.EqButPhase { s with work := { s.work with hdr := h } }) ∧
      (h ≠ s.cfg.bankUpper ∧ h ≠ s.cfg.bankLower →
        t.DoneWith { s with out := s.out ++ [.diag 2 (BitVec.ofNat 32 s.work.k.val)] })

/-- R153, whole: VAL.ALT(k). -/
def Obligations.ValAltChecksAlternation : Prop :=
  ∀ s : State, ∃ t, exec .valAlt s = .next t ∧
    (s.work.k.val = 0 ∨ s.work.hdr ≠ s.work.hdrPrev →
      t.EqButPhase { s with work := { s.work with hdrPrev := s.work.hdr } }) ∧
    (0 < s.work.k.val ∧ s.work.hdr = s.work.hdrPrev →
      t.DoneWith { s with out := s.out ++ [.diag 3 (BitVec.ofNat 32 s.work.k.val)] })

/-- R69, R44: after the packet load PKT[i] is payload byte i, for every i, the buffer is in canonical form (log 3), and nothing
but PKT and PKT_LEN is written. -/
def Obligations.PacketLoadStoresPayload : Prop :=
  ∀ (s : State) (p : List Byte), p.length = 1206 →
    (∀ i < 1206, p[i]? = some (Memory.read (s.loadPacket 1206 p).work.pkt i)) ∧
    Memory.wf (s.loadPacket 1206 p).work.pkt = true ∧
    s.loadPacket 1206 p =
      { s with work := { s.work with pktLen := 1206, pkt := (s.loadPacket 1206 p).work.pkt } }

/-! ## Decoder -/

/-- R167, whole: TSLD. -/
def Obligations.TsldLoadsTrailer : Prop :=
  ∀ s : State, ∃ t, exec .tsld s = .next t ∧
    t.EqButPhase { s with work := { s.work with ts := t.work.ts, factory := t.work.factory } } ∧
    t.work.ts.toNat = (Memory.read s.work.pkt 1200).toNat + 256 * (Memory.read s.work.pkt 1201).toNat +
      65536 * (Memory.read s.work.pkt 1202).toNat + 16777216 * (Memory.read s.work.pkt 1203).toNat ∧
    t.work.factory.toNat = (Memory.read s.work.pkt 1204).toNat + 256 * (Memory.read s.work.pkt 1205).toNat

/-- R161, whole: ROTLD(k) clamps and reports. -/
def Obligations.RotldClampsAndReports : Prop :=
  ∀ (s : State) (r : Nat),
    r = (Memory.read s.work.pkt (100 * s.work.k.val + 2)).toNat +
      256 * (Memory.read s.work.pkt (100 * s.work.k.val + 3)).toNat →
    ∃ t, exec .rotld s = .next t ∧
      t.EqButPhase { s with out := t.out, work := { s.work with b := t.work.b } } ∧
      t.work.b[s.work.k].toNat = min r 35999 ∧
      (∀ k : Fin 12, k ≠ s.work.k → t.work.b[k] = s.work.b[k]) ∧
      t.out = s.out ++ (if r ≤ 35999 then [] else [.diag 4 (BitVec.ofNat 32 (65536 * r + s.work.k.val))])

/-- R162, whole: DELTA(k). -/
def Obligations.DeltaIsAdvanceToNextBlock : Prop :=
  ∀ s : State, ∃ t, exec .delta s = .next t ∧
    t.EqButPhase { s with work := { s.work with d := t.work.d } } ∧
    (∀ h : s.work.k.val + 1 < 12, (t.work.d[s.work.k].toNat : Int) =
      ((s.work.b[s.work.k.val + 1].toNat : Int) - (s.work.b[s.work.k].toNat : Int)) % 36000) ∧
    (s.work.k.val = 11 → t.work.d[s.work.k] = s.work.d[10]) ∧
    (∀ k : Fin 12, k ≠ s.work.k → t.work.d[k] = s.work.d[k])

/-- R163, whole: FIRBASE(k). Both results are legal azimuths when the rotation is in range. -/
def Obligations.FirbaseGivesBaseAzimuths : Prop :=
  ∀ s : State, ∃ t, exec .firbase s = .next t ∧
    t.EqButPhase { s with work := { s.work with fir := t.work.fir } } ∧
    t.work.fir[firingIndex s.work.k 0].fa.toNat = 32 * s.work.b[s.work.k].toNat ∧
    t.work.fir[firingIndex s.work.k 1].fa.toNat =
      (32 * s.work.b[s.work.k].toNat + 16 * s.work.d[s.work.k].toNat) % 1152000 ∧
    (s.work.b[s.work.k].toNat ≤ 35999 → ∀ j : Fin 2, t.work.fir[firingIndex s.work.k j].fa.toNat ≤ 1151999) ∧
    (∀ g : Fin 24, t.work.fir[g] = { s.work.fir[g] with fa := t.work.fir[g].fa }) ∧
    (∀ g : Fin 24, g ≠ firingIndex s.work.k 0 → g ≠ firingIndex s.work.k 1 → t.work.fir[g] = s.work.fir[g])

/-- R164, the pseudocode: FDELTA(g). -/
def Obligations.FdeltaIsAdvanceToNextFiring : Prop :=
  ∀ s : State, ∃ t, exec .fdelta s = .next t ∧
    t.EqButPhase { s with work := { s.work with delta := t.work.delta } } ∧
    (∀ h : s.work.g.val + 1 < 24, (t.work.delta[s.work.g].toNat : Int) =
      ((s.work.fir[s.work.g.val + 1].fa.toNat : Int) - (s.work.fir[s.work.g].fa.toNat : Int)) % 1152000) ∧
    (s.work.g.val = 23 → (t.work.delta[s.work.g].toNat : Int) =
      ((s.work.fir[23].fa.toNat : Int) - (s.work.fir[22].fa.toNat : Int)) % 1152000) ∧
    (∀ g : Fin 24, g ≠ s.work.g → t.work.delta[g] = s.work.delta[g])

/-- R165, whole: CHDEC(g, c). -/
def Obligations.ChdecReadsDistanceAndIntensity : Prop :=
  ∀ (s : State) (o : Nat), o = readingOffset s.work.k.val s.work.j.val s.work.c.val →
    ∃ t, exec .chdec s = .next t ∧
      t.EqButPhase { s with work := { s.work with fir := t.work.fir } } ∧
      (t.work.fir[s.work.g].dist[s.work.c]).toNat =
        ((Memory.read s.work.pkt o).toNat + 256 * (Memory.read s.work.pkt (o + 1)).toNat) * s.distRes.toNat ∧
      t.work.fir[s.work.g].int[s.work.c] = Memory.read s.work.pkt (o + 2) ∧
      (∀ g : Fin 24, t.work.fir[g].fa = s.work.fir[g].fa ∧ t.work.fir[g].az = s.work.fir[g].az) ∧
      (∀ (g : Fin 24) (c : Fin 16), (g, c) ≠ (s.work.g, s.work.c) →
        t.work.fir[g].dist[c] = s.work.fir[g].dist[c] ∧ t.work.fir[g].int[c] = s.work.fir[g].int[c])

/-- R166, whole: INTERP(g, c). -/
def Obligations.InterpAdvancesAzimuth : Prop :=
  ∀ s : State, ∃ t, exec .interp s = .next t ∧
    t.EqButPhase { s with work := { s.work with fir := t.work.fir } } ∧
    (t.work.fir[s.work.g].az[s.work.c]).toNat = (s.work.fir[s.work.g].fa.toNat +
      s.work.delta[s.work.g].toNat * s.work.c.val * s.cfg.tDsr / s.cfg.tFiring) % 1152000 ∧
    (∀ g : Fin 24, t.work.fir[g] = { s.work.fir[g] with az := t.work.fir[g].az }) ∧
    (∀ (g : Fin 24) (c : Fin 16), (g, c) ≠ (s.work.g, s.work.c) → t.work.fir[g].az[c] = s.work.fir[g].az[c])

/-- R160 to R168: what DECODE leaves in the temporaries and the Firing file, as functions of the packet's bytes and DIST_RES: the
trailer's fields, the clamped rotations, the advances, the base azimuths, the closed form of R164, and the 384 readings. -/
def Obligations.DecodeClosedForm : Prop :=
  ∀ (s : State) (p : List Byte), p.length = 1206 →
    let t := decodePacket (s.loadPacket 1206 p)
    (t.work.ts.toNat = deviceTimeOf p ∧ t.work.factory.toNat = factoryOf p) ∧
    (∀ k : Fin 12, t.work.b[k].toNat = clampedOf p k.val ∧ t.work.d[k].toNat = advanceOf p k.val) ∧
    (∀ k : Fin 12,
      t.work.fir[firingIndex k 0].fa.toNat = 32 * clampedOf p k.val ∧
      t.work.fir[firingIndex k 1].fa.toNat = (32 * clampedOf p k.val + 16 * advanceOf p k.val) % 1152000) ∧
    (∀ (k : Fin 12) (j : Fin 2), t.work.delta[firingIndex k j].toNat = 16 * advanceOf p k.val) ∧
    (∀ (k : Fin 12) (j : Fin 2) (c : Fin 16),
      (t.work.fir[firingIndex k j].az[c]).toNat = (t.work.fir[firingIndex k j].fa.toNat +
        16 * advanceOf p k.val * c.val * s.cfg.tDsr / s.cfg.tFiring) % 1152000 ∧
      (t.work.fir[firingIndex k j].dist[c]).toNat =
        (byteOf p (readingOffset k.val j.val c.val) + 256 * byteOf p (readingOffset k.val j.val c.val + 1)) *
          s.distRes.toNat ∧
      (t.work.fir[firingIndex k j].int[c]).toNat = byteOf p (readingOffset k.val j.val c.val + 2))

/-- R168 (b), R160, R161: DECODE writes nothing but the transient state and OUT, and reports exactly the out-of-range rotations,
in block order. -/
def Obligations.DecodeReportsOnlyRotations : Prop :=
  ∀ s : State, ∃ t, t = decodePacket s ∧
    t = { s with
      out := s.out ++ (blocks.filter fun k => decide (35999 < (s.work.rot k).toNat)).map fun k =>
        .diag 4 (BitVec.ofNat 32 (65536 * (s.work.rot k).toNat + k.val))
      work := t.work } ∧
    t.work.pkt = s.work.pkt

/-! ## Filter and transform -/

/-- R181, whole: FLT.RANGE(g, c), both ends inclusive. -/
def Obligations.RangeFilterIsInclusive : Prop :=
  ∀ s : State, ∃ t, exec .fltRange s = .next t ∧
    t.EqButPhase { s with work := { s.work with
      valid := decide (s.minRange.toNat ≤ (s.work.fir[s.work.g].dist[s.work.c]).toNat ∧
        (s.work.fir[s.work.g].dist[s.work.c]).toNat ≤ s.maxRange.toNat) } }

/-- R182, whole: FLT.AZ(g, c), inclusive on min, exclusive on max, VALID only ever cleared. -/
def Obligations.AzimuthFilterClearsInsideWindows : Prop :=
  ∀ (s : State) (a : Nat), a = (s.work.fir[s.work.g].az[s.work.c]).toNat →
    ∃ t, exec .fltAz s = .next t ∧
      ((s.angleDisableMin.toNat ≤ a ∧ a < s.angleDisableMax.toNat) ∨
        (s.angle3DisableMin.toNat ≤ a ∧ a < s.angle3DisableMax.toNat) →
        t.EqButPhase { s with work := { s.work with valid := false } }) ∧
      (¬ (s.angleDisableMin.toNat ≤ a ∧ a < s.angleDisableMax.toNat) ∧
        ¬ (s.angle3DisableMin.toNat ≤ a ∧ a < s.angle3DisableMax.toNat) → t.EqButPhase s)

/-- R183, whole: AZIDX(g, c), always inside the table. -/
def Obligations.AzidxRoundsToHundredth : Prop :=
  ∀ s : State, ∃ t, exec .azidx s = .next t ∧
    t.EqButPhase { s with work := { s.work with idx := t.work.idx } } ∧
    t.work.idx.toNat = ((s.work.fir[s.work.g].az[s.work.c]).toNat + 16) / 32 % 36000 ∧ t.work.idx.toNat < 36000

/-- R184, whole: XFORM(g, c) computes the four rounded products exactly, none larger than the distance, so nothing overflows. -/
def Obligations.XformIsExact : Prop :=
  ∀ s : State, paramsOk s.cfg = true → ∃ t, exec .xform s = .next t ∧
    t.EqButPhase { s with work := { s.work with hr := t.work.hr, x := t.work.x, y := t.work.y, z := t.work.z } } ∧
    (let d : Int := (s.work.fir[s.work.g].dist[s.work.c]).toNat
     t.work.hr.toInt = rnd16 (d * altCos s.cfg s.work.c) ∧
     t.work.x.toInt = rnd16 (t.work.hr.toInt * azCos s.cfg s.work.idx.toNat) ∧
     t.work.y.toInt = rnd16 (t.work.hr.toInt * azSin s.cfg s.work.idx.toNat) ∧
     t.work.z.toInt = rnd16 (d * altSin s.cfg s.work.c) ∧
     |t.work.hr.toInt| ≤ d ∧ |t.work.x.toInt| ≤ d ∧ |t.work.y.toInt| ≤ d ∧ |t.work.z.toInt| ≤ d)

/-- R185, R12: TSTAMP(g, c), with no wrap. -/
def Obligations.TstampNeverWraps : Prop :=
  ∀ s : State, paramsOk s.cfg = true → ∃ t, exec .tstamp s = .next t ∧
    t.EqButPhase { s with work := { s.work with t := t.work.t } } ∧
    t.work.t.toNat = s.work.ts.toNat * s.cfg.tsScale + s.work.g.val * s.cfg.tFiring + s.work.c.val * s.cfg.tDsr ∧
    t.work.t.toNat < 2 ^ 49

/-- R168 (c), R185: the corrections of a firing never go backwards, and stay within its advance when 15 × T_DSR ≤ T_FIRING; exactly
then the times of one packet never decrease in firing and channel order. -/
def Obligations.OrderNeedsChannelsWithinFiring : Prop :=
  ∀ cfg : Config,
    (∀ (advance : Az) (c c' : Fin 16), c ≤ c' →
      correction cfg advance c ≤ correction cfg advance c' ∧
      (15 * cfg.tDsr ≤ cfg.tFiring → correction cfg advance c' ≤ advance.toNat)) ∧
    ∀ ts : BitVec 32,
      (15 * cfg.tDsr ≤ cfg.tFiring ↔
        ∀ (g g' : Fin 24) (c c' : Fin 16), g < g' ∨ (g = g' ∧ c ≤ c') →
          firingTime cfg ts g + c.val * cfg.tDsr ≤ firingTime cfg ts g' + c'.val * cfg.tDsr)

/-- R47: the reference AZ ROM has the two symmetries the rule states, and R8's bound. -/
def Obligations.ReferenceRomSymmetries : Prop :=
  ∀ i < 36000, refSin i = -refSin ((36000 - i) % 36000) ∧ refCos i = refSin ((i + 9000) % 36000) ∧
    |refSin i| ≤ 65536 ∧ |refCos i| ≤ 65536

/-! ## Accumulator -/

/-- R201, whole: BOUNDARY(g). -/
def Obligations.BoundaryNeedsMoreThanTolerance : Prop :=
  ∀ s : State, ∃ t, exec .boundary s = .next t ∧
    (s.work.fir[s.work.g].fa.toNat + s.cfg.tol < s.lastAz.toNat →
      t.EqButPhase { s with accState := .boundaryJustCrossed, work := { s.work with boundary := true } }) ∧
    (s.lastAz.toNat ≤ s.work.fir[s.work.g].fa.toNat + s.cfg.tol →
      t.EqButPhase { s with work := { s.work with boundary := false } })

/-- R202, R220: FINALIZE(g): the first boundary since reset emits nothing and clears FIRST_SWEEP; every other one appends the
events of the sweep and changes no other state. -/
def Obligations.FinalizeSuppressesOnlyOnce : Prop :=
  ∀ s : State, ∃ t, exec .finalize s = .next t ∧
    (s.firstSweep = true → t.EqButPhase { s with firstSweep := false }) ∧
    (s.firstSweep = false → t.EqButPhase { s with out := s.out ++ s.emission })

/-- R203, R12: NEWSWEEP(g), the start time with no wrap. -/
def Obligations.NewsweepStartsEmpty : Prop :=
  ∀ s : State, paramsOk s.cfg = true → ∃ t, exec .newsweep s = .next t ∧
    t.EqButPhase { s with
      sweep := [], sweepOvf := false, accState := .accumulating, sweepStartTs := t.sweepStartTs } ∧
    t.sweepStartTs.toNat = s.work.ts.toNat * s.cfg.tsScale + s.work.g.val * s.cfg.tFiring

/-- R204, R186: APPEND stores the point with its azimuth key, or loses it and reports the first loss of the sweep. -/
def Obligations.AppendStoresOrLoses : Prop :=
  ∀ (s : State) (room : Bool),
    room = (match s.cfg.sweepCap with
      | none => true
      | some cap => decide (s.sweep.length < cap)) →
    ∃ t, exec .append s = .next t ∧
      (room = true →
        t.EqButPhase { s with
          sweep := s.sweep ++ [{
            azKey := s.work.fir[s.work.g].az[s.work.c]
            point := { x := s.work.x, y := s.work.y, z := s.work.z
                       intensity := s.work.fir[s.work.g].int[s.work.c]
                       channel := BitVec.ofNat 4 s.work.c.val, tstamp := s.work.t } }] }) ∧
      (room = false ∧ s.sweepOvf = false → t.EqButPhase { s with sweepOvf := true, out := s.out ++ [.diag 9 0] }) ∧
      (room = false ∧ s.sweepOvf = true → t.EqButPhase s)

/-- R200 to R205: at a firing without a boundary only LAST_AZ moves; at a boundary the old sweep's events (none at the first
boundary) are appended before the new, empty sweep begins, and LAST_AZ moves too. -/
def Obligations.FiringOpensNewSweepAtBoundary : Prop :=
  ∀ (s : State) (k : Fin 12) (j : Fin 2), s.accState = .accumulating →
    (s.lastAz.toNat ≤ s.work.fir[firingIndex k j].fa.toNat + s.cfg.tol →
      openFiring s k j = { s with lastAz := s.work.fir[firingIndex k j].fa, work := (openFiring s k j).work }) ∧
    (s.work.fir[firingIndex k j].fa.toNat + s.cfg.tol < s.lastAz.toNat →
      openFiring s k j = { s with
        firstSweep := false, sweepOvf := false, sweep := []
        sweepStartTs := BitVec.ofNat 64 (firingTime s.cfg s.work.ts (firingIndex k j))
        out := s.out ++ (if s.firstSweep then [] else s.emission)
        lastAz := s.work.fir[firingIndex k j].fa, work := (openFiring s k j).work })

/-- R180 to R186, R204, R133: a reading outside the range or inside a window leaves everything but the transient state. One that
survives is appended where there is room, with its azimuth, the point of R184 to R186 and its time; where there is none it is
lost, and the first loss of a sweep sets SWEEP_OVF and is reported. -/
def Obligations.DroppedReadingLeavesNoTrace : Prop :=
  ∀ (s : State) (k : Fin 12) (j : Fin 2) (c : Fin 16),
    let d := (s.work.fir[firingIndex k j].dist[c]).toNat
    let a := (s.work.fir[firingIndex k j].az[c]).toNat
    let kept := s.minRange.toNat ≤ d ∧ d ≤ s.maxRange.toNat ∧
      ¬ (s.angleDisableMin.toNat ≤ a ∧ a < s.angleDisableMax.toNat) ∧
      ¬ (s.angle3DisableMin.toNat ≤ a ∧ a < s.angle3DisableMax.toNat)
    let t := processReading s k j c
    (¬ kept → t = { s with work := t.work }) ∧
    (kept → (∀ cap, s.cfg.sweepCap = some cap → s.sweep.length < cap) →
      ∃ e, t = { s with sweep := s.sweep ++ [e], work := t.work } ∧ e.azKey.toNat = a ∧
        e.point.channel = BitVec.ofNat 4 c.val ∧ e.point.intensity = s.work.fir[firingIndex k j].int[c] ∧
        (paramsOk s.cfg = true →
          e.point.tstamp.toNat = timeOf s.cfg s.work.ts.toNat k.val j.val c.val ∧
          e.point = pointOf s.cfg d a (s.work.fir[firingIndex k j].int[c]) c
            (timeOf s.cfg s.work.ts.toNat k.val j.val c.val))) ∧
    (∀ cap, kept → s.cfg.sweepCap = some cap → cap ≤ s.sweep.length →
      (s.sweepOvf = false → t = { s with sweepOvf := true, out := s.out ++ [.diag 9 0], work := t.work }) ∧
      (s.sweepOvf = true → t = { s with work := t.work }))

/-! ## Assembler -/

/-- R221: EMIT.BATCH. -/
def Obligations.BatchCarriesWholeSweep : Prop :=
  ∀ s : State, ∃ t, exec .emitBatch s = .next t ∧
    t.EqButPhase { s with out := s.out ++ [.batch s.sweepStartTs s.sweepOvf (s.sweep.map (·.point))] }

/-- R222: EMIT.SCAN emits the selected line, or the sixteen lines in rising channel order, and nothing else. -/
def Obligations.ScanEmitsSelectedOrAllLines : Prop :=
  ∀ s : State, ∃ t, exec .emitScan s = .next t ∧
    (s.emitCtrl.getLsbD 2 = true →
      t.EqButPhase { s with
        out := s.out ++ [.scan s.activeCh ((scanLine s.sweep s.activeCh).map (·.point))] }) ∧
    (s.emitCtrl.getLsbD 2 = false →
      t.EqButPhase { s with
        out := s.out ++ ([0, 1, 2, 3, 4, 5, 6, 7, 8, 9, 10, 11, 12, 13, 14, 15] : List Ch).map fun ch =>
          .scan ch ((scanLine s.sweep ch).map (·.point)) })

/-- R222: a line holds exactly the channel's entries, in rising azimuth, equal azimuths in insertion order; the sixteen lines
together are the sweep. -/
def Obligations.ScanLinesPartitionSweep : Prop :=
  ∀ (sweep : List SweepEntry),
    (∀ ch : Ch,
      (scanLine sweep ch).Pairwise (fun e e' => e.azKey.toNat ≤ e'.azKey.toNat) ∧
      ∀ a : Az, (scanLine sweep ch).filter (fun e => e.azKey == a) =
        sweep.filter fun e => e.point.channel == ch && e.azKey == a) ∧
    List.Perm (channelNumbers.flatMap fun ch => scanLine sweep ch) sweep

/-! ## Diagnostics and the rows of the packet -/

/-- R230, R242, the model's reading of the rows (log 10): each diagnostic appends its event, with the info of its row, and then
its class acts. -/
def Obligations.DiagnosticsActByClass : Prop :=
  ∀ s : State,
    let ends (i : Instr) (code : BitVec 8) (info : BitVec 32) : Prop :=
      ∃ t, exec i s = .next t ∧ t.DoneWith { s with out := s.out ++ [.diag code info] }
    ends .diagBadSize 1 (BitVec.ofNat 32 s.work.pktLen.toNat) ∧
    ends .diagBadHeader 2 (BitVec.ofNat 32 s.work.k.val) ∧
    ends .diagBadAlternation 3 (BitVec.ofNat 32 s.work.k.val) ∧
    exec .diagAzOutOfRange s = .next { s with
      out := s.out ++ [.diag 4 (BitVec.ofNat 32 (65536 * (s.work.rot s.work.k).toNat + s.work.k.val))] } ∧
    (∃ t, exec .diagConfigError s = .next t ∧ t.DoneWith { s with
      mode := .failed
      out := s.out ++ [.diag 5 ((if s.maxRange.toNat < s.minRange.toNat then 1 else 0) +
        (if s.distRes = 0 then 2 else 0))] }) ∧
    ends .diagNotRunning 6 s.mode.code ∧
    ends .diagBadCmd 7 (BitVec.ofNat 32 (s.work.cmd.toNat / 2 ^ 32)) ∧
    ends .diagCfgLocked 8 (BitVec.ofNat 32 (s.work.cmd.toNat / 2 ^ 44)) ∧
    exec .diagSweepOverflow s = .next { s with out := s.out ++ [.diag 9 0] }

/-- R95, R152, R153, R161, R165, the model's reading of the rows (log 8): a block of either bank that continues the alternation
stands in PKT at its place, its header becomes HDR_PREV, its rotation is loaded and clamped, its 32 readings are read, and
nothing else changes. -/
def Obligations.BlocksAreCheckedAndRead : Prop :=
  ∀ (s : State) (rot : BitVec 16) (rd : Vector Reading 32), Memory.wf s.work.pkt = true →
    ∀ (i : Instr) (hdr : BitVec 16),
      (i = .blkUpper rot rd ∧ hdr = s.cfg.bankUpper) ∨ (i = .blkLower rot rd ∧ hdr = s.cfg.bankLower) →
      s.work.k = 0 ∨ s.work.hdrPrev ≠ hdr →
      ∃ t, exec i s = .next t ∧
        t = { s with
          out := s.out ++ (if rot.toNat ≤ 35999 then []
            else [.diag 4 (BitVec.ofNat 32 (65536 * rot.toNat + s.work.k.val))])
          work := { s.work with pkt := t.work.pkt, hdr := hdr, hdrPrev := hdr, b := t.work.b, fir := t.work.fir } } ∧
        (∀ a, Memory.read t.work.pkt a =
          if 100 * s.work.k.val ≤ a ∧ a < 100 * s.work.k.val + 100
          then (blockBytes hdr rot rd).getD (a - 100 * s.work.k.val) 0 else Memory.read s.work.pkt a) ∧
        t.work.b[s.work.k].toNat = min rot.toNat 35999 ∧
        (∀ k : Fin 12, k ≠ s.work.k → t.work.b[k] = s.work.b[k]) ∧
        (∀ (j : Fin 2) (c : Fin 16) (r : Reading), rd[16 * j.val + c.val]? = some r →
          (t.work.fir[firingIndex s.work.k j].dist[c]).toNat = r.dist.toNat * s.distRes.toNat ∧
          t.work.fir[firingIndex s.work.k j].int[c] = r.int) ∧
        (∀ g : Fin 24, t.work.fir[g].fa = s.work.fir[g].fa ∧ t.work.fir[g].az = s.work.fir[g].az) ∧
        (∀ g : Fin 24, g ≠ firingIndex s.work.k 0 → g ≠ firingIndex s.work.k 1 → t.work.fir[g] = s.work.fir[g])

/-- R153, the model's reading of the rows (log 8): a block whose bank repeats the one before it is reported and ends the
command. -/
def Obligations.RepeatedBankReported : Prop :=
  ∀ (s : State) (rot : BitVec 16) (rd : Vector Reading 32), Memory.wf s.work.pkt = true → s.work.k ≠ 0 →
    ∀ i : Instr,
      (i = .blkUpper rot rd ∧ s.work.hdrPrev = s.cfg.bankUpper) ∨
        (i = .blkLower rot rd ∧ s.work.hdrPrev = s.cfg.bankLower) →
      ∃ t, exec i s = .next t ∧ t.DoneWith { s with out := s.out ++ [.diag 3 (BitVec.ofNat 32 s.work.k.val)] }

/-- R99, R100, R167, the model's reading of the row (log 9): the trailer stands in PKT at 1200 and is loaded. -/
def Obligations.TrailerIsLoaded : Prop :=
  ∀ (s : State) (ts : BitVec 32) (factory : BitVec 16), Memory.wf s.work.pkt = true →
    ∃ t, exec (.pktTrailer ts factory) s = .next t ∧
      t = { s with work := { s.work with pkt := t.work.pkt, ts := ts, factory := factory } } ∧
      (∀ a, Memory.read t.work.pkt a =
        if 1200 ≤ a ∧ a < 1206 then (trailerBytes ts factory).getD (a - 1200) 0 else Memory.read s.work.pkt a)

/-! ## Invariants and whole-machine rules -/

/-- R53: the reset state is sound and at rest. That the transient state at rest is the one value `Work.idle`, and that the packet
buffer is in canonical form, are the model's choices (DESIGN CHOICE, log 2 and log 3), not R53's. -/
def Obligations.ResetStateRests : Prop := State.reset.Resting ∧ State.reset.Sound

/-- R53 (b) to (e), R161, R168 (a): every step, from whatever sound state, keeps the state sound. The canonical form of the packet
buffer is the model's choice (DESIGN CHOICE, log 3), and a step inside a command is the model's reading (DEDUCED, log 6). -/
def Obligations.EveryStepKeepsSound : Prop :=
  ∀ s t : State, s.Sound → step s = .next t → t.Sound

/-- R53: a block at rest that serves a request of the host comes to rest again. That the transient state at rest is the one value
`Work.idle`, that the buffer is in canonical form, and the list of pending requests are the model's choices (DESIGN CHOICE,
log 2, log 3 and log 4), not R53's. -/
def Obligations.HostStepKeepsResting : Prop :=
  ∀ s t : State, s.Resting → s.hostNext = true → step s = .next t → t.Resting

/-- R53, R271: after every run of host actions from reset, with whatever parameters, the block rests. What rest says of the
transient state and the buffer, and that a run's actions stand in the list of pending requests, are the model's choices (DESIGN
CHOICE, log 2, log 3 and log 4). -/
def Obligations.EveryHostRunRests : Prop :=
  ∀ (cfg : Config) (acts : List Request) (n : Nat) (t : State), acts.all Request.fromHost = true →
    Sys2Proof.core.run n ({ State.reset with cfg := cfg, inbox := acts } : State) = .next t → t.Resting

/-- R49: nothing but the reset pin removes or reorders events. -/
def Obligations.EventsAreNeverWithdrawn : Prop :=
  ∀ s t : State, s.work.phase ≠ .idle ∨ s.resetNext = false → step s = .next t → s.out <+: t.out

/-- R20, R245, R265: once MODE has left UNCONFIGURED, no step but a reset changes MODE or a configuration register; FAILED is
left only by reset. -/
def Obligations.ConfigurationFrozenByInit : Prop :=
  ∀ s t : State, s.mode ≠ .unconfigured →
    s.work.phase ≠ .idle ∨ (s.hostNext = true ∧ s.resetNext = false) → step s = .next t →
    t.mode = s.mode ∧ t.minRange = s.minRange ∧ t.maxRange = s.maxRange ∧
      t.angleDisableMin = s.angleDisableMin ∧ t.angleDisableMax = s.angleDisableMax ∧
      t.angle3DisableMin = s.angle3DisableMin ∧ t.angle3DisableMax = s.angle3DisableMax ∧
      t.distRes = s.distRes ∧ t.distMax = s.distMax ∧ t.emitCtrl = s.emitCtrl

/-- R51, R45: no step changes the build parameters or the ROMs. -/
def Obligations.ParametersNeverChange : Prop := ∀ s t : State, step s = .next t → t.cfg = s.cfg

/-- R28, R100, R167: DIST_MAX is read by no rule, and FACTORY is loaded and not used again: two states that differ in one of them
alone take steps that differ in it alone, and the events are the same. -/
def Obligations.DistMaxChangesNoOutput : Prop :=
  ∀ (s t : State) (v : Len), step s = .next t →
    (∃ t', step { s with distMax := v } = .next t' ∧ t'.out = t.out ∧ { t' with distMax := t.distMax } = t) ∧
    ∀ f : BitVec 16, ∃ t', step { s with work := { s.work with factory := f } } = .next t' ∧ t'.out = t.out ∧
      { t' with work := { t'.work with factory := t.work.factory } } = t

/-- R113, the model's reading of the rows (DEDUCED, log 11): PHASE names the operation that runs. Every phase row completes and
leaves its own name in PHASE, but that a check of VAL.SIZE, VAL.HDR or VAL.ALT that fails, and only that, leaves IDLE (R242, R43),
and that FINALIZE, which performs EMIT itself, leaves the name of the last operation it performed (DEDUCED, log 20). -/
def Obligations.PhaseNamesRunningOperation : Prop :=
  ∀ (p : Phase) (s : State), p ≠ .idle → ∃ t, exec p.instr s = .next t ∧
    t.work.phase =
      if p = .valSize then (if s.work.pktLen.toNat = 1206 then .valSize else .idle)
      else if p = .valHdr then
        (if s.work.header s.work.k = s.cfg.bankUpper ∨ s.work.header s.work.k = s.cfg.bankLower then .valHdr else .idle)
      else if p = .valAlt then (if 0 < s.work.k.val ∧ s.work.hdr = s.work.hdrPrev then .idle else .valAlt)
      else if p = .finalize then
        (if s.firstSweep then .finalize else if s.scanEn then .emitScan else if s.cloudEn then .emitBatch else .finalize)
      else p

/-- R42, R113, R133: the sequencer, started at VAL.SIZE on the loaded packet and stepped one operation at a time, does exactly what
RECV does as a whole. That a state inside a command takes one operation a step, that FINALIZE performs EMIT itself, and that
LAST_AZ is written in the move to the channels are the model's readings (DEDUCED, log 6, log 20 and log 21). -/
def Obligations.SequencerPerformsRecv : Prop :=
  ∀ (s : State) (len : BitVec 12) (d : BitVec 32) (payload : List Byte), paramsOk s.cfg = true → s.mode = .run →
    ∃ n, Sys2Proof.core.run n
        ((((s.accept (cmdWord 3 len d)).loadPacket len payload).seek .valSize 0 0 0) : State) =
      exec (.recv len d payload) s
end

