-- ==== Sys2Proof/Laws/Bytes.lean ====
section
/-! SUPPORT. The byte order helpers: what `leNat` reads back of `leBytes`, and the other way round. -/

namespace Sys2Proof

@[simp] theorem leBytes_length (n v : Nat) : (leBytes n v).length = n := by
  induction n generalizing v with
  | zero => rfl
  | succ n ih => simp [leBytes, ih]

theorem leNat_leBytes (n v : Nat) : leNat (leBytes n v) = v % 256 ^ n := by
  induction n generalizing v with
  | zero => simp [leBytes, leNat, Nat.mod_one]
  | succ n ih =>
    have h : v % 256 ^ (n + 1) = v % 256 + 256 * (v / 256 % 256 ^ n) := by rw [Nat.pow_add_one', Nat.mod_mul]
    rw [leBytes, leNat, ih, BitVec.toNat_ofNat, h]

theorem leNat_lt (bs : List Byte) : leNat bs < 256 ^ bs.length := by
  induction bs with
  | nil => simp [leNat]
  | cons b bs ih =>
    have := b.isLt
    rw [leNat, List.length_cons, Nat.pow_succ]
    omega

theorem leBytes_leNat (bs : List Byte) : leBytes bs.length (leNat bs) = bs := by
  induction bs with
  | nil => rfl
  | cons b bs ih =>
    have hb := b.isLt
    have h1 : BitVec.ofNat 8 (b.toNat + 256 * leNat bs) = b := by
      apply BitVec.eq_of_toNat_eq; rw [BitVec.toNat_ofNat]; omega
    have h2 : (b.toNat + 256 * leNat bs) / 256 = leNat bs := by omega
    rw [List.length_cons, leNat, leBytes, h1, h2, ih]

/-- A 16-bit value is the two bytes it is written as. -/
theorem ofNat_leNat_leBytes_two (w : BitVec 16) : BitVec.ofNat 16 (leNat (leBytes 2 w.toNat)) = w := by
  rw [leNat_leBytes]; apply BitVec.eq_of_toNat_eq; rw [BitVec.toNat_ofNat]; have := w.isLt; omega

/-- A 32-bit value is the four bytes it is written as. -/
theorem ofNat_leNat_leBytes_four (w : BitVec 32) : BitVec.ofNat 32 (leNat (leBytes 4 w.toNat)) = w := by
  rw [leNat_leBytes]; apply BitVec.eq_of_toNat_eq; rw [BitVec.toNat_ofNat]; have := w.isLt; omega

theorem leBytes_two (v : Nat) : leBytes 2 v = [BitVec.ofNat 8 v, BitVec.ofNat 8 (v / 256)] := rfl

theorem leBytes_four (v : Nat) : leBytes 4 v =
    [BitVec.ofNat 8 v, BitVec.ofNat 8 (v / 256), BitVec.ofNat 8 (v / 256 / 256), BitVec.ofNat 8 (v / 256 / 256 / 256)] := rfl

/-- The fields of a command word read back. -/
@[simp] theorem cmdOp_cmdWord (op : BitVec 4) (a : BitVec 12) (d : BitVec 32) : cmdOp (cmdWord op a d) = op := by
  apply BitVec.eq_of_getLsbD_eq
  intro i hi
  simp only [cmdOp, cmdWord, BitVec.getLsbD_extractLsb', BitVec.getLsbD_append]
  rw [show decide (i < 4) = true by simpa using hi]
  have : ¬ (44 + i < 32) := by omega
  have : ¬ (44 + i - 32 < 12) := by omega
  simp [*, show 44 + i - 32 - 12 = i by omega]

@[simp] theorem cmdA_cmdWord (op : BitVec 4) (a : BitVec 12) (d : BitVec 32) : cmdA (cmdWord op a d) = a := by
  apply BitVec.eq_of_getLsbD_eq
  intro i hi
  simp only [cmdA, cmdWord, BitVec.getLsbD_extractLsb', BitVec.getLsbD_append]
  rw [show decide (i < 12) = true by simpa using hi]
  have : ¬ (32 + i < 32) := by omega
  simp [*, show 32 + i - 32 = i by omega]

@[simp] theorem cmdD_cmdWord (op : BitVec 4) (a : BitVec 12) (d : BitVec 32) : cmdD (cmdWord op a d) = d := by
  apply BitVec.eq_of_getLsbD_eq
  intro i hi
  simp only [cmdD, cmdWord, BitVec.getLsbD_extractLsb', BitVec.getLsbD_append]
  simp [hi]

/-- The readings of a written block are read back. -/
theorem readingsOf_flatMap (rd : List Reading) : readingsOf (rd.flatMap readingBytes) = some rd := by
  induction rd with
  | nil => rfl
  | cons r rd ih =>
    have h : (r :: rd).flatMap readingBytes = BitVec.ofNat 8 r.dist.toNat :: BitVec.ofNat 8 (r.dist.toNat / 256) :: r.int ::
        rd.flatMap readingBytes := rfl
    rw [h, readingsOf, ih, ← leBytes_two, ofNat_leNat_leBytes_two]
    rfl

/-- A block written with a header is decoded as that header says. -/
theorem decodeBlk_blockBytes (cfg : Config) (hdr rot : BitVec 16) (rd : Vector Reading 32) :
    decodeBlk cfg (blockBytes hdr rot rd) =
      if hdr = cfg.bankUpper then .ok (.blkUpper rot rd)
      else if hdr = cfg.bankLower then .ok (.blkLower rot rd) else .error .blockHeader := by
  have h : blockBytes hdr rot rd = BitVec.ofNat 8 hdr.toNat :: BitVec.ofNat 8 (hdr.toNat / 256) ::
      BitVec.ofNat 8 rot.toNat :: BitVec.ofNat 8 (rot.toNat / 256) :: rd.toList.flatMap readingBytes := rfl
  rw [h, decodeBlk]
  simp only [← leBytes_two, ofNat_leNat_leBytes_two, readingsOf_flatMap]
  have hs : rd.toList.toArray.size = 32 := by simp
  rw [dif_pos hs]
  rfl

end Sys2Proof
end

