-- ==== Sys2Proof/Laws/Memory.lean ====
section
/-! SUPPORT. The packet memory: reading after writing, and every operation keeps the canonical form. -/

namespace Sys2Proof.Machine

theorem Memory.wfFrom_weaken {lo lo' : Nat} {m : Memory} (h : lo' ≤ lo) (hm : Memory.wfFrom lo m = true) :
    Memory.wfFrom lo' m = true := by
  cases m with
  | nil => rfl
  | cons c m => simp only [Memory.wfFrom, Bool.and_eq_true, decide_eq_true_eq] at hm ⊢; exact ⟨⟨⟨by omega, hm.1.1.2⟩, hm.1.2⟩, hm.2⟩

/-- An address below the lowest listed one reads as unlisted. -/
theorem Memory.read_below {lo a : Nat} {m : Memory} (hm : Memory.wfFrom lo m = true) (ha : a < lo) :
    Memory.read m a = unlistedByte := by
  induction m generalizing lo with
  | nil => rfl
  | cons c m ih =>
    obtain ⟨b, v⟩ := c
    simp only [Memory.wfFrom, Bool.and_eq_true, decide_eq_true_eq] at hm
    rw [Memory.read, if_neg (by omega)]
    exact ih hm.2 (by omega)

/-- A write keeps the canonical form. -/
theorem Memory.wfFrom_write {lo a : Nat} {m : Memory} (v : Byte) (hm : Memory.wfFrom lo m = true) (hlo : lo ≤ a)
    (ha : a < packetBytes) : Memory.wfFrom lo (Memory.write m a v) = true := by
  induction m generalizing lo with
  | nil =>
    rw [Memory.write]; split
    · rfl
    · simp [Memory.wfFrom, *]
  | cons c m ih =>
    obtain ⟨b, w⟩ := c
    have hm' := hm
    simp only [Memory.wfFrom, Bool.and_eq_true, decide_eq_true_eq] at hm
    obtain ⟨⟨⟨h1, h2⟩, h3⟩, h4⟩ := hm
    rw [Memory.write]
    split
    · split
      · exact hm'
      · simp only [Memory.wfFrom, Bool.and_eq_true, decide_eq_true_eq]
        exact ⟨⟨⟨hlo, ha⟩, by assumption⟩, ⟨⟨by omega, h2⟩, h3⟩, h4⟩
    · split
      · split
        · exact Memory.wfFrom_weaken (by omega) h4
        · subst a; simp only [Memory.wfFrom, Bool.and_eq_true, decide_eq_true_eq]
          exact ⟨⟨⟨hlo, ha⟩, by assumption⟩, h4⟩
      · simp only [Memory.wfFrom, Bool.and_eq_true, decide_eq_true_eq]
        exact ⟨⟨⟨h1, h2⟩, h3⟩, ih h4 (by omega)⟩

theorem Memory.wf_write {m : Memory} {a : Nat} (v : Byte) (hm : m.wf = true) (ha : a < packetBytes) :
    Memory.wf (Memory.write m a v) = true := Memory.wfFrom_write v hm (Nat.zero_le a) ha

/-- A run of writes inside the packet keeps the canonical form. -/
theorem Memory.wf_writeAll {m : Memory} {a : Nat} (vs : List Byte) (hm : m.wf = true) (ha : a + vs.length ≤ packetBytes) :
    Memory.wf (Memory.writeAll m a vs) = true := by
  induction vs generalizing m a with
  | nil => exact hm
  | cons v vs ih =>
    rw [List.length_cons] at ha
    exact ih (Memory.wf_write v hm (by omega)) (by omega)

/-- The packet load is in canonical form. -/
theorem Memory.wfFrom_load (a : Nat) (vs : List Byte) (h : a + vs.length ≤ packetBytes) :
    Memory.wfFrom a (Memory.load a vs) = true := by
  induction vs generalizing a with
  | nil => rfl
  | cons v vs ih =>
    rw [List.length_cons] at h
    have := ih (a + 1) (by omega)
    rw [Memory.load]; split
    · exact Memory.wfFrom_weaken (by omega) this
    · simp only [Memory.wfFrom, Bool.and_eq_true, decide_eq_true_eq]
      exact ⟨⟨⟨le_refl _, by omega⟩, by assumption⟩, this⟩

theorem Memory.wf_load (vs : List Byte) (h : vs.length ≤ packetBytes) : Memory.wf (Memory.load 0 vs) = true :=
  Memory.wfFrom_load 0 vs (by omega)

/-- `loadPacket` keeps the canonical form. -/
theorem loadPacket_wf {s : State} (len : BitVec 12) (payload : List Byte) (h : Memory.wf s.work.pkt = true) :
    Memory.wf (s.loadPacket len payload).work.pkt = true := by
  simp only [State.loadPacket]; split
  · exact Memory.wf_load _ (by simp)
  · exact h

/-- Reset's packet buffer is in canonical form. -/
theorem reset_pkt_wf : Memory.wf State.reset.work.pkt = true := rfl

/-- The byte written is the byte read. -/
theorem Memory.read_write_same {lo a : Nat} {m : Memory} (v : Byte) (hm : Memory.wfFrom lo m = true) :
    Memory.read (Memory.write m a v) a = v := by
  induction m generalizing lo with
  | nil =>
    rw [Memory.write]; split
    · simp [Memory.read, *]
    · simp [Memory.read]
  | cons c m ih =>
    obtain ⟨b, w⟩ := c
    have hm' := hm
    simp only [Memory.wfFrom, Bool.and_eq_true, decide_eq_true_eq] at hm
    rw [Memory.write]
    split
    · split
      · rename_i hab hv
        subst hv
        rw [Memory.read, if_neg (by omega)]
        exact Memory.read_below hm.2 (by omega)
      · simp [Memory.read]
    · split
      · split
        · rename_i hab hv
          subst hv
          exact Memory.read_below hm.2 (by omega)
        · simp [Memory.read]
      · rw [Memory.read, if_neg (by omega)]
        exact ih hm.2

/-- Every other byte reads as before. -/
theorem Memory.read_write_other {a b : Nat} (m : Memory) (v : Byte) (h : b ≠ a) :
    Memory.read (Memory.write m a v) b = Memory.read m b := by
  have hs : a ≠ b := fun e => h e.symm
  induction m with
  | nil => rw [Memory.write]; split <;> simp [Memory.read, hs]
  | cons c m ih =>
    obtain ⟨d, w⟩ := c
    rw [Memory.write]
    split
    · split <;> simp [Memory.read, hs]
    · split
      · subst a; split <;> simp [Memory.read, hs]
      · simp [Memory.read, ih]

/-- What is read of a loaded packet is the byte loaded there. -/
theorem Memory.read_load (base i : Nat) (vs : List Byte) :
    Memory.read (Memory.load base vs) (base + i) = vs.getD i 0 := by
  induction vs generalizing base i with
  | nil => simp [Memory.load, Memory.read, unlistedByte]
  | cons v vs ih =>
    rw [Memory.load]
    split
    · rename_i hv
      cases i with
      | zero =>
        subst hv
        have : Memory.read (Memory.load (base + 1) vs) base = unlistedByte := by
          clear ih
          suffices ∀ lo, base < lo → Memory.read (Memory.load lo vs) base = unlistedByte from this _ (by omega)
          induction vs with
          | nil => intros; rfl
          | cons w ws ih2 =>
            intro lo hlo
            rw [Memory.load]; split
            · exact ih2 _ (by omega)
            · rw [Memory.read, if_neg (by omega)]; exact ih2 _ (by omega)
        simp [this]
      | succ i => rw [show base + (i + 1) = base + 1 + i by omega, ih]; simp
    · cases i with
      | zero => simp [Memory.read]
      | succ i =>
        rw [Memory.read, if_neg (by omega), show base + (i + 1) = base + 1 + i by omega, ih]; simp

theorem memRead_one (m : Memory) (a : Nat) (h : a + 1 ≤ packetBytes) : memRead m a 1 h = (Memory.read m a).toNat := by
  simp [memRead, leNat, List.range_succ]

theorem memRead_two (m : Memory) (a : Nat) (h : a + 2 ≤ packetBytes) :
    memRead m a 2 h = (Memory.read m a).toNat + 256 * (Memory.read m (a + 1)).toNat := by
  simp [memRead, leNat, List.range_succ]

theorem memRead_four (m : Memory) (a : Nat) (h : a + 4 ≤ packetBytes) :
    memRead m a 4 h = (Memory.read m a).toNat + 256 * ((Memory.read m (a + 1)).toNat +
      256 * ((Memory.read m (a + 2)).toNat + 256 * (Memory.read m (a + 3)).toNat)) := by
  simp [memRead, leNat, List.range_succ]

end Sys2Proof.Machine
end

