-- ==== Sys2Proof/Laws/Operands.lean ====
section
/-! SUPPORT. The packet's fields as sums of its bytes, and reads of the indexed files after a write to one entry. -/

namespace Sys2Proof.Machine

/-- An entry of an indexed file after one entry is written. -/
theorem getElem_set_fin {α : Type} {n : Nat} (v : Vector α n) (i j : Fin n) (x : α) :
    (v.set i x i.isLt)[j] = if i = j then x else v[j] := by
  simp [Vector.getElem_set, Fin.ext_iff]

@[simp] theorem setFiring_fir (s : State) (g g' : Fin 24) (f : Firing) :
    (s.setFiring g f).work.fir[g'] = if g = g' then f else s.work.fir[g'] := getElem_set_fin _ _ _ _

/-- The two firings of a block are different entries. -/
theorem firingIndex_ne (k : Fin 12) : firingIndex k 0 ≠ firingIndex k 1 := by
  intro h; have := congrArg Fin.val h; simp [firingIndex] at this

/-- R17: a firing index names one block and one firing in it. -/
theorem firingIndex_inj {k k' : Fin 12} {j j' : Fin 2} (h : firingIndex k j = firingIndex k' j') : k = k' ∧ j = j' := by
  have h := congrArg Fin.val h
  simp only [firingIndex] at h
  have := j.isLt; have := j'.isLt
  exact ⟨Fin.ext (by omega), Fin.ext (by omega)⟩

/-- A two-byte field of the packet as a number. -/
theorem ofNat_memRead_two (m : Memory) (a : Nat) (h : a + 2 ≤ packetBytes) :
    (BitVec.ofNat 16 (memRead m a 2 h)).toNat = (Memory.read m a).toNat + 256 * (Memory.read m (a + 1)).toNat := by
  have := (Memory.read m a).isLt; have := (Memory.read m (a + 1)).isLt
  rw [memRead_two, BitVec.toNat_ofNat]; omega

/-- R95. -/
theorem header_toNat (w : Work) (k : Fin 12) : (w.header k).toNat =
    (Memory.read w.pkt (100 * k.val)).toNat + 256 * (Memory.read w.pkt (100 * k.val + 1)).toNat := ofNat_memRead_two _ _ _

/-- R96. -/
theorem rot_toNat (w : Work) (k : Fin 12) : (w.rot k).toNat =
    (Memory.read w.pkt (100 * k.val + 2)).toNat + 256 * (Memory.read w.pkt (100 * k.val + 3)).toNat := ofNat_memRead_two _ _ _

/-- R97. -/
theorem rawDist_toNat (w : Work) (k : Fin 12) (j : Fin 2) (c : Fin 16) : (w.rawDist k j c).toNat =
    (Memory.read w.pkt (readingAt k j c)).toNat + 256 * (Memory.read w.pkt (readingAt k j c + 1)).toNat :=
  ofNat_memRead_two _ _ _

/-- R98. -/
theorem rawInt_eq (w : Work) (k : Fin 12) (j : Fin 2) (c : Fin 16) :
    w.rawInt k j c = Memory.read w.pkt (readingAt k j c + 2) := by
  simp [Work.rawInt, memRead_one]

/-- R100. -/
theorem factoryField_toNat (w : Work) :
    w.factoryField.toNat = (Memory.read w.pkt 1204).toNat + 256 * (Memory.read w.pkt 1205).toNat := ofNat_memRead_two _ _ _

/-- R99. -/
theorem tsField_toNat (w : Work) : w.tsField.toNat = (Memory.read w.pkt 1200).toNat +
    256 * (Memory.read w.pkt 1201).toNat + 65536 * (Memory.read w.pkt 1202).toNat +
    16777216 * (Memory.read w.pkt 1203).toNat := by
  have h0 := (Memory.read w.pkt 1200).isLt; have h1 := (Memory.read w.pkt 1201).isLt
  have h2 := (Memory.read w.pkt 1202).isLt; have h3 := (Memory.read w.pkt 1203).isLt
  unfold Work.tsField
  rw [memRead_four, BitVec.toNat_ofNat]
  simp only [Nat.reduceAdd]
  omega

/-- R69: after the load of a whole packet its byte i stands at address i. -/
theorem read_loadPacket (s : State) {p : List Byte} (hp : p.length = packetBytes) (a : Nat) :
    Memory.read (s.loadPacket 1206 p).work.pkt a = p.getD a 0 := by
  have h := Memory.read_load 0 a p
  rw [Nat.zero_add] at h
  rw [← h]; congr 1
  show (if (1206 : BitVec 12).toNat = packetBytes then Memory.load 0 (p.take packetBytes) else s.work.pkt) = _
  rw [if_pos (by decide), List.take_of_length_le (by omega)]

end Sys2Proof.Machine
end

