-- ==== Sys2Proof/Laws/Rom.lean ====
section
/-! SUPPORT. The ROMs' bound (R8) and the rounding primitive (R14). -/

namespace Sys2Proof.Machine

/-- Entries `from` up to `from + n - 1` of the reference quarter turn are within the bound. -/
def quarterWithin : Nat → Nat → Bool
  | _, 0 => true
  | i, n + 1 => Nat.ble (quarterSin i) trigOne && quarterWithin (i + 1) n

theorem quarterWithin_spec {i n : Nat} (h : quarterWithin i n = true) {k : Nat} (h1 : i ≤ k) (h2 : k < i + n) :
    quarterSin k ≤ trigOne := by
  induction n generalizing i with
  | zero => omega
  | succ n ih =>
    rw [quarterWithin, Bool.and_eq_true] at h
    rcases Nat.eq_or_lt_of_le h1 with rfl | h1
    · exact Nat.le_of_ble_eq_true h.1
    · exact ih h.2 h1 (by omega)

theorem quarterWithin_0 : quarterWithin 0 1500 = true := by decide +kernel
theorem quarterWithin_1 : quarterWithin 1500 1500 = true := by decide +kernel
theorem quarterWithin_2 : quarterWithin 3000 1500 = true := by decide +kernel
theorem quarterWithin_3 : quarterWithin 4500 1500 = true := by decide +kernel
theorem quarterWithin_4 : quarterWithin 6000 1500 = true := by decide +kernel
theorem quarterWithin_5 : quarterWithin 7500 1501 = true := by decide +kernel

/-- No entry of the reference quarter turn exceeds 65536. -/
theorem quarterSin_le {i : Nat} (h : i ≤ 9000) : quarterSin i ≤ trigOne := by
  rcases Nat.lt_or_ge i 1500 with h0 | h0
  · exact quarterWithin_spec quarterWithin_0 (by omega) (by omega)
  rcases Nat.lt_or_ge i 3000 with h1 | h1
  · exact quarterWithin_spec quarterWithin_1 (by omega) (by omega)
  rcases Nat.lt_or_ge i 4500 with h2 | h2
  · exact quarterWithin_spec quarterWithin_2 (by omega) (by omega)
  rcases Nat.lt_or_ge i 6000 with h3 | h3
  · exact quarterWithin_spec quarterWithin_3 (by omega) (by omega)
  rcases Nat.lt_or_ge i 7500 with h4 | h4
  · exact quarterWithin_spec quarterWithin_4 (by omega) (by omega)
  · exact quarterWithin_spec quarterWithin_5 (by omega) (by omega)

/-- The reference AZ_SIN meets R8. -/
theorem refSin_natAbs_le (i : Nat) : (refSin i).natAbs ≤ trigOne := by
  have h1 := quarterSin_le (i := i % 9000) (by omega)
  have h2 := quarterSin_le (i := 9000 - i % 9000) (by omega)
  unfold refSin; split <;> omega

/-- The reference AZ_COS meets R8. -/
theorem refCos_natAbs_le (i : Nat) : (refCos i).natAbs ≤ trigOne := refSin_natAbs_le _

theorem romPairOk_iff {e : Int × Int} : romPairOk e = true ↔ e.1.natAbs ≤ trigOne ∧ e.2.natAbs ≤ trigOne := by
  simp [romPairOk]

/-- Every constraint of R7 and R8, out of the check. -/
theorem paramsOk_iff {cfg : Config} : paramsOk cfg = true ↔
    cfg.bankUpper ≠ cfg.bankLower ∧ cfg.tDsr < 2 ^ 20 ∧ (1 ≤ cfg.tFiring ∧ cfg.tFiring < 2 ^ 24) ∧
    (1 ≤ cfg.tsScale ∧ cfg.tsScale < 2 ^ 16) ∧ cfg.tol < fullTurn ∧ (∀ cap, cfg.sweepCap = some cap → 1 ≤ cap) ∧
    (∀ e ∈ cfg.altRom.toList, romPairOk e = true) ∧ AzRom.ok cfg.azRom = true := by
  unfold paramsOk
  cases cfg.sweepCap <;>
    simp only [Bool.and_eq_true, decide_eq_true_eq, List.all_eq_true, and_assoc, reduceCtorEq, IsEmpty.forall_iff,
      implies_true, true_and, Option.some.injEq, forall_eq']

/-- The altitude ROM of an accepted parameter set meets R8. -/
theorem altRom_natAbs_le {cfg : Config} (h : paramsOk cfg = true) (c : Fin 16) :
    (altSin cfg c).natAbs ≤ trigOne ∧ (altCos cfg c).natAbs ≤ trigOne := by
  have := (paramsOk_iff.1 h).2.2.2.2.2.2.1 (cfg.altRom[c]) (by simp)
  exact romPairOk_iff.1 this

/-- The azimuth ROM of an accepted parameter set meets R8. -/
theorem azRom_natAbs_le {cfg : Config} (h : paramsOk cfg = true) (i : Nat) :
    (azSin cfg i).natAbs ≤ trigOne ∧ (azCos cfg i).natAbs ≤ trigOne := by
  have hr := (paramsOk_iff.1 h).2.2.2.2.2.2.2
  unfold azSin azCos
  split
  · exact ⟨refSin_natAbs_le i, refCos_natAbs_le i⟩
  · rename_i entries he
    rw [he] at hr
    simp only [AzRom.ok, Bool.and_eq_true, List.all_eq_true] at hr
    by_cases hi : i < entries.length
    · have := hr.2 (entries[i]) (List.getElem_mem hi)
      simpa [hi] using romPairOk_iff.1 this
    · simp [hi]

/-- R14: rounding is to nearest, ties toward plus infinity. -/
theorem rnd16_spec (p : Int) : 65536 * rnd16 p ≤ p + 32768 ∧ p + 32768 < 65536 * rnd16 p + 65536 := by
  unfold rnd16; omega

end Sys2Proof.Machine
end

