-- ==== Sys2Proof/Laws/State.lean ====
section
/-! SUPPORT. One lemma per field per named update of the state, true by definition. -/

namespace Sys2Proof.Machine

variable (s : State)

section seek
variable (p : Phase) (k : Fin 12) (j : Fin 2) (c : Fin 16)
@[simp] theorem seek_cfg : (s.seek p k j c).cfg = s.cfg := rfl
@[simp] theorem seek_inbox : (s.seek p k j c).inbox = s.inbox := rfl
@[simp] theorem seek_minRange : (s.seek p k j c).minRange = s.minRange := rfl
@[simp] theorem seek_maxRange : (s.seek p k j c).maxRange = s.maxRange := rfl
@[simp] theorem seek_angleDisableMin : (s.seek p k j c).angleDisableMin = s.angleDisableMin := rfl
@[simp] theorem seek_angleDisableMax : (s.seek p k j c).angleDisableMax = s.angleDisableMax := rfl
@[simp] theorem seek_angle3DisableMin : (s.seek p k j c).angle3DisableMin = s.angle3DisableMin := rfl
@[simp] theorem seek_angle3DisableMax : (s.seek p k j c).angle3DisableMax = s.angle3DisableMax := rfl
@[simp] theorem seek_distRes : (s.seek p k j c).distRes = s.distRes := rfl
@[simp] theorem seek_distMax : (s.seek p k j c).distMax = s.distMax := rfl
@[simp] theorem seek_emitCtrl : (s.seek p k j c).emitCtrl = s.emitCtrl := rfl
@[simp] theorem seek_activeCh : (s.seek p k j c).activeCh = s.activeCh := rfl
@[simp] theorem seek_mode : (s.seek p k j c).mode = s.mode := rfl
@[simp] theorem seek_firstSweep : (s.seek p k j c).firstSweep = s.firstSweep := rfl
@[simp] theorem seek_sweepOvf : (s.seek p k j c).sweepOvf = s.sweepOvf := rfl
@[simp] theorem seek_accState : (s.seek p k j c).accState = s.accState := rfl
@[simp] theorem seek_lastAz : (s.seek p k j c).lastAz = s.lastAz := rfl
@[simp] theorem seek_sweep : (s.seek p k j c).sweep = s.sweep := rfl
@[simp] theorem seek_sweepStartTs : (s.seek p k j c).sweepStartTs = s.sweepStartTs := rfl
@[simp] theorem seek_out : (s.seek p k j c).out = s.out := rfl
@[simp] theorem seek_work_phase : (s.seek p k j c).work.phase = p := rfl
@[simp] theorem seek_work_k : (s.seek p k j c).work.k = k := rfl
@[simp] theorem seek_work_j : (s.seek p k j c).work.j = j := rfl
@[simp] theorem seek_work_c : (s.seek p k j c).work.c = c := rfl
@[simp] theorem seek_work_cmd : (s.seek p k j c).work.cmd = s.work.cmd := rfl
@[simp] theorem seek_work_pkt : (s.seek p k j c).work.pkt = s.work.pkt := rfl
@[simp] theorem seek_work_pktLen : (s.seek p k j c).work.pktLen = s.work.pktLen := rfl
@[simp] theorem seek_work_hdr : (s.seek p k j c).work.hdr = s.work.hdr := rfl
@[simp] theorem seek_work_hdrPrev : (s.seek p k j c).work.hdrPrev = s.work.hdrPrev := rfl
@[simp] theorem seek_work_ts : (s.seek p k j c).work.ts = s.work.ts := rfl
@[simp] theorem seek_work_factory : (s.seek p k j c).work.factory = s.work.factory := rfl
@[simp] theorem seek_work_b : (s.seek p k j c).work.b = s.work.b := rfl
@[simp] theorem seek_work_d : (s.seek p k j c).work.d = s.work.d := rfl
@[simp] theorem seek_work_delta : (s.seek p k j c).work.delta = s.work.delta := rfl
@[simp] theorem seek_work_fir : (s.seek p k j c).work.fir = s.work.fir := rfl
@[simp] theorem seek_work_boundary : (s.seek p k j c).work.boundary = s.work.boundary := rfl
@[simp] theorem seek_work_valid : (s.seek p k j c).work.valid = s.work.valid := rfl
@[simp] theorem seek_work_idx : (s.seek p k j c).work.idx = s.work.idx := rfl
@[simp] theorem seek_work_hr : (s.seek p k j c).work.hr = s.work.hr := rfl
@[simp] theorem seek_work_x : (s.seek p k j c).work.x = s.work.x := rfl
@[simp] theorem seek_work_y : (s.seek p k j c).work.y = s.work.y := rfl
@[simp] theorem seek_work_z : (s.seek p k j c).work.z = s.work.z := rfl
@[simp] theorem seek_work_t : (s.seek p k j c).work.t = s.work.t := rfl
end seek

section enter
variable (p : Phase)
@[simp] theorem enter_cfg : (s.enter p).cfg = s.cfg := rfl
@[simp] theorem enter_inbox : (s.enter p).inbox = s.inbox := rfl
@[simp] theorem enter_minRange : (s.enter p).minRange = s.minRange := rfl
@[simp] theorem enter_maxRange : (s.enter p).maxRange = s.maxRange := rfl
@[simp] theorem enter_angleDisableMin : (s.enter p).angleDisableMin = s.angleDisableMin := rfl
@[simp] theorem enter_angleDisableMax : (s.enter p).angleDisableMax = s.angleDisableMax := rfl
@[simp] theorem enter_angle3DisableMin : (s.enter p).angle3DisableMin = s.angle3DisableMin := rfl
@[simp] theorem enter_angle3DisableMax : (s.enter p).angle3DisableMax = s.angle3DisableMax := rfl
@[simp] theorem enter_distRes : (s.enter p).distRes = s.distRes := rfl
@[simp] theorem enter_distMax : (s.enter p).distMax = s.distMax := rfl
@[simp] theorem enter_emitCtrl : (s.enter p).emitCtrl = s.emitCtrl := rfl
@[simp] theorem enter_activeCh : (s.enter p).activeCh = s.activeCh := rfl
@[simp] theorem enter_mode : (s.enter p).mode = s.mode := rfl
@[simp] theorem enter_firstSweep : (s.enter p).firstSweep = s.firstSweep := rfl
@[simp] theorem enter_sweepOvf : (s.enter p).sweepOvf = s.sweepOvf := rfl
@[simp] theorem enter_accState : (s.enter p).accState = s.accState := rfl
@[simp] theorem enter_lastAz : (s.enter p).lastAz = s.lastAz := rfl
@[simp] theorem enter_sweep : (s.enter p).sweep = s.sweep := rfl
@[simp] theorem enter_sweepStartTs : (s.enter p).sweepStartTs = s.sweepStartTs := rfl
@[simp] theorem enter_out : (s.enter p).out = s.out := rfl
@[simp] theorem enter_work_phase : (s.enter p).work.phase = p := rfl
@[simp] theorem enter_work_k : (s.enter p).work.k = s.work.k := rfl
@[simp] theorem enter_work_j : (s.enter p).work.j = s.work.j := rfl
@[simp] theorem enter_work_c : (s.enter p).work.c = s.work.c := rfl
@[simp] theorem enter_work_cmd : (s.enter p).work.cmd = s.work.cmd := rfl
@[simp] theorem enter_work_pkt : (s.enter p).work.pkt = s.work.pkt := rfl
@[simp] theorem enter_work_pktLen : (s.enter p).work.pktLen = s.work.pktLen := rfl
@[simp] theorem enter_work_hdr : (s.enter p).work.hdr = s.work.hdr := rfl
@[simp] theorem enter_work_hdrPrev : (s.enter p).work.hdrPrev = s.work.hdrPrev := rfl
@[simp] theorem enter_work_ts : (s.enter p).work.ts = s.work.ts := rfl
@[simp] theorem enter_work_factory : (s.enter p).work.factory = s.work.factory := rfl
@[simp] theorem enter_work_b : (s.enter p).work.b = s.work.b := rfl
@[simp] theorem enter_work_d : (s.enter p).work.d = s.work.d := rfl
@[simp] theorem enter_work_delta : (s.enter p).work.delta = s.work.delta := rfl
@[simp] theorem enter_work_fir : (s.enter p).work.fir = s.work.fir := rfl
@[simp] theorem enter_work_boundary : (s.enter p).work.boundary = s.work.boundary := rfl
@[simp] theorem enter_work_valid : (s.enter p).work.valid = s.work.valid := rfl
@[simp] theorem enter_work_idx : (s.enter p).work.idx = s.work.idx := rfl
@[simp] theorem enter_work_hr : (s.enter p).work.hr = s.work.hr := rfl
@[simp] theorem enter_work_x : (s.enter p).work.x = s.work.x := rfl
@[simp] theorem enter_work_y : (s.enter p).work.y = s.work.y := rfl
@[simp] theorem enter_work_z : (s.enter p).work.z = s.work.z := rfl
@[simp] theorem enter_work_t : (s.enter p).work.t = s.work.t := rfl
end enter

section endCommand
@[simp] theorem endCommand_cfg : (s.endCommand).cfg = s.cfg := rfl
@[simp] theorem endCommand_inbox : (s.endCommand).inbox = s.inbox := rfl
@[simp] theorem endCommand_minRange : (s.endCommand).minRange = s.minRange := rfl
@[simp] theorem endCommand_maxRange : (s.endCommand).maxRange = s.maxRange := rfl
@[simp] theorem endCommand_angleDisableMin : (s.endCommand).angleDisableMin = s.angleDisableMin := rfl
@[simp] theorem endCommand_angleDisableMax : (s.endCommand).angleDisableMax = s.angleDisableMax := rfl
@[simp] theorem endCommand_angle3DisableMin : (s.endCommand).angle3DisableMin = s.angle3DisableMin := rfl
@[simp] theorem endCommand_angle3DisableMax : (s.endCommand).angle3DisableMax = s.angle3DisableMax := rfl
@[simp] theorem endCommand_distRes : (s.endCommand).distRes = s.distRes := rfl
@[simp] theorem endCommand_distMax : (s.endCommand).distMax = s.distMax := rfl
@[simp] theorem endCommand_emitCtrl : (s.endCommand).emitCtrl = s.emitCtrl := rfl
@[simp] theorem endCommand_activeCh : (s.endCommand).activeCh = s.activeCh := rfl
@[simp] theorem endCommand_mode : (s.endCommand).mode = s.mode := rfl
@[simp] theorem endCommand_firstSweep : (s.endCommand).firstSweep = s.firstSweep := rfl
@[simp] theorem endCommand_sweepOvf : (s.endCommand).sweepOvf = s.sweepOvf := rfl
@[simp] theorem endCommand_accState : (s.endCommand).accState = s.accState := rfl
@[simp] theorem endCommand_lastAz : (s.endCommand).lastAz = s.lastAz := rfl
@[simp] theorem endCommand_sweep : (s.endCommand).sweep = s.sweep := rfl
@[simp] theorem endCommand_sweepStartTs : (s.endCommand).sweepStartTs = s.sweepStartTs := rfl
@[simp] theorem endCommand_out : (s.endCommand).out = s.out := rfl
@[simp] theorem endCommand_work : (s.endCommand).work = Work.idle := rfl
end endCommand

section accept
variable (w : BitVec 48)
@[simp] theorem accept_cfg : (s.accept w).cfg = s.cfg := rfl
@[simp] theorem accept_inbox : (s.accept w).inbox = s.inbox := rfl
@[simp] theorem accept_minRange : (s.accept w).minRange = s.minRange := rfl
@[simp] theorem accept_maxRange : (s.accept w).maxRange = s.maxRange := rfl
@[simp] theorem accept_angleDisableMin : (s.accept w).angleDisableMin = s.angleDisableMin := rfl
@[simp] theorem accept_angleDisableMax : (s.accept w).angleDisableMax = s.angleDisableMax := rfl
@[simp] theorem accept_angle3DisableMin : (s.accept w).angle3DisableMin = s.angle3DisableMin := rfl
@[simp] theorem accept_angle3DisableMax : (s.accept w).angle3DisableMax = s.angle3DisableMax := rfl
@[simp] theorem accept_distRes : (s.accept w).distRes = s.distRes := rfl
@[simp] theorem accept_distMax : (s.accept w).distMax = s.distMax := rfl
@[simp] theorem accept_emitCtrl : (s.accept w).emitCtrl = s.emitCtrl := rfl
@[simp] theorem accept_activeCh : (s.accept w).activeCh = s.activeCh := rfl
@[simp] theorem accept_mode : (s.accept w).mode = s.mode := rfl
@[simp] theorem accept_firstSweep : (s.accept w).firstSweep = s.firstSweep := rfl
@[simp] theorem accept_sweepOvf : (s.accept w).sweepOvf = s.sweepOvf := rfl
@[simp] theorem accept_accState : (s.accept w).accState = s.accState := rfl
@[simp] theorem accept_lastAz : (s.accept w).lastAz = s.lastAz := rfl
@[simp] theorem accept_sweep : (s.accept w).sweep = s.sweep := rfl
@[simp] theorem accept_sweepStartTs : (s.accept w).sweepStartTs = s.sweepStartTs := rfl
@[simp] theorem accept_out : (s.accept w).out = s.out := rfl
@[simp] theorem accept_work : (s.accept w).work = { Work.idle with cmd := w } := rfl
end accept

section emit
variable (e : Event)
@[simp] theorem emit_cfg : (s.emit e).cfg = s.cfg := rfl
@[simp] theorem emit_inbox : (s.emit e).inbox = s.inbox := rfl
@[simp] theorem emit_minRange : (s.emit e).minRange = s.minRange := rfl
@[simp] theorem emit_maxRange : (s.emit e).maxRange = s.maxRange := rfl
@[simp] theorem emit_angleDisableMin : (s.emit e).angleDisableMin = s.angleDisableMin := rfl
@[simp] theorem emit_angleDisableMax : (s.emit e).angleDisableMax = s.angleDisableMax := rfl
@[simp] theorem emit_angle3DisableMin : (s.emit e).angle3DisableMin = s.angle3DisableMin := rfl
@[simp] theorem emit_angle3DisableMax : (s.emit e).angle3DisableMax = s.angle3DisableMax := rfl
@[simp] theorem emit_distRes : (s.emit e).distRes = s.distRes := rfl
@[simp] theorem emit_distMax : (s.emit e).distMax = s.distMax := rfl
@[simp] theorem emit_emitCtrl : (s.emit e).emitCtrl = s.emitCtrl := rfl
@[simp] theorem emit_activeCh : (s.emit e).activeCh = s.activeCh := rfl
@[simp] theorem emit_mode : (s.emit e).mode = s.mode := rfl
@[simp] theorem emit_firstSweep : (s.emit e).firstSweep = s.firstSweep := rfl
@[simp] theorem emit_sweepOvf : (s.emit e).sweepOvf = s.sweepOvf := rfl
@[simp] theorem emit_accState : (s.emit e).accState = s.accState := rfl
@[simp] theorem emit_lastAz : (s.emit e).lastAz = s.lastAz := rfl
@[simp] theorem emit_sweep : (s.emit e).sweep = s.sweep := rfl
@[simp] theorem emit_sweepStartTs : (s.emit e).sweepStartTs = s.sweepStartTs := rfl
@[simp] theorem emit_out : (s.emit e).out = s.out ++ [e] := rfl
@[simp] theorem emit_work : (s.emit e).work = s.work := rfl
end emit

section setFiring
variable (g : Fin 24) (f : Firing)
@[simp] theorem setFiring_cfg : (s.setFiring g f).cfg = s.cfg := rfl
@[simp] theorem setFiring_inbox : (s.setFiring g f).inbox = s.inbox := rfl
@[simp] theorem setFiring_minRange : (s.setFiring g f).minRange = s.minRange := rfl
@[simp] theorem setFiring_maxRange : (s.setFiring g f).maxRange = s.maxRange := rfl
@[simp] theorem setFiring_angleDisableMin : (s.setFiring g f).angleDisableMin = s.angleDisableMin := rfl
@[simp] theorem setFiring_angleDisableMax : (s.setFiring g f).angleDisableMax = s.angleDisableMax := rfl
@[simp] theorem setFiring_angle3DisableMin : (s.setFiring g f).angle3DisableMin = s.angle3DisableMin := rfl
@[simp] theorem setFiring_angle3DisableMax : (s.setFiring g f).angle3DisableMax = s.angle3DisableMax := rfl
@[simp] theorem setFiring_distRes : (s.setFiring g f).distRes = s.distRes := rfl
@[simp] theorem setFiring_distMax : (s.setFiring g f).distMax = s.distMax := rfl
@[simp] theorem setFiring_emitCtrl : (s.setFiring g f).emitCtrl = s.emitCtrl := rfl
@[simp] theorem setFiring_activeCh : (s.setFiring g f).activeCh = s.activeCh := rfl
@[simp] theorem setFiring_mode : (s.setFiring g f).mode = s.mode := rfl
@[simp] theorem setFiring_firstSweep : (s.setFiring g f).firstSweep = s.firstSweep := rfl
@[simp] theorem setFiring_sweepOvf : (s.setFiring g f).sweepOvf = s.sweepOvf := rfl
@[simp] theorem setFiring_accState : (s.setFiring g f).accState = s.accState := rfl
@[simp] theorem setFiring_lastAz : (s.setFiring g f).lastAz = s.lastAz := rfl
@[simp] theorem setFiring_sweep : (s.setFiring g f).sweep = s.sweep := rfl
@[simp] theorem setFiring_sweepStartTs : (s.setFiring g f).sweepStartTs = s.sweepStartTs := rfl
@[simp] theorem setFiring_out : (s.setFiring g f).out = s.out := rfl
@[simp] theorem setFiring_work_phase : (s.setFiring g f).work.phase = s.work.phase := rfl
@[simp] theorem setFiring_work_k : (s.setFiring g f).work.k = s.work.k := rfl
@[simp] theorem setFiring_work_j : (s.setFiring g f).work.j = s.work.j := rfl
@[simp] theorem setFiring_work_c : (s.setFiring g f).work.c = s.work.c := rfl
@[simp] theorem setFiring_work_cmd : (s.setFiring g f).work.cmd = s.work.cmd := rfl
@[simp] theorem setFiring_work_pkt : (s.setFiring g f).work.pkt = s.work.pkt := rfl
@[simp] theorem setFiring_work_pktLen : (s.setFiring g f).work.pktLen = s.work.pktLen := rfl
@[simp] theorem setFiring_work_hdr : (s.setFiring g f).work.hdr = s.work.hdr := rfl
@[simp] theorem setFiring_work_hdrPrev : (s.setFiring g f).work.hdrPrev = s.work.hdrPrev := rfl
@[simp] theorem setFiring_work_ts : (s.setFiring g f).work.ts = s.work.ts := rfl
@[simp] theorem setFiring_work_factory : (s.setFiring g f).work.factory = s.work.factory := rfl
@[simp] theorem setFiring_work_b : (s.setFiring g f).work.b = s.work.b := rfl
@[simp] theorem setFiring_work_d : (s.setFiring g f).work.d = s.work.d := rfl
@[simp] theorem setFiring_work_delta : (s.setFiring g f).work.delta = s.work.delta := rfl
@[simp] theorem setFiring_work_fir : (s.setFiring g f).work.fir = s.work.fir.set g f := rfl
@[simp] theorem setFiring_work_boundary : (s.setFiring g f).work.boundary = s.work.boundary := rfl
@[simp] theorem setFiring_work_valid : (s.setFiring g f).work.valid = s.work.valid := rfl
@[simp] theorem setFiring_work_idx : (s.setFiring g f).work.idx = s.work.idx := rfl
@[simp] theorem setFiring_work_hr : (s.setFiring g f).work.hr = s.work.hr := rfl
@[simp] theorem setFiring_work_x : (s.setFiring g f).work.x = s.work.x := rfl
@[simp] theorem setFiring_work_y : (s.setFiring g f).work.y = s.work.y := rfl
@[simp] theorem setFiring_work_z : (s.setFiring g f).work.z = s.work.z := rfl
@[simp] theorem setFiring_work_t : (s.setFiring g f).work.t = s.work.t := rfl
end setFiring

section loadPacket
variable (len : BitVec 12) (p : List Byte)
@[simp] theorem loadPacket_cfg : (s.loadPacket len p).cfg = s.cfg := rfl
@[simp] theorem loadPacket_inbox : (s.loadPacket len p).inbox = s.inbox := rfl
@[simp] theorem loadPacket_minRange : (s.loadPacket len p).minRange = s.minRange := rfl
@[simp] theorem loadPacket_maxRange : (s.loadPacket len p).maxRange = s.maxRange := rfl
@[simp] theorem loadPacket_angleDisableMin : (s.loadPacket len p).angleDisableMin = s.angleDisableMin := rfl
@[simp] theorem loadPacket_angleDisableMax : (s.loadPacket len p).angleDisableMax = s.angleDisableMax := rfl
@[simp] theorem loadPacket_angle3DisableMin : (s.loadPacket len p).angle3DisableMin = s.angle3DisableMin := rfl
@[simp] theorem loadPacket_angle3DisableMax : (s.loadPacket len p).angle3DisableMax = s.angle3DisableMax := rfl
@[simp] theorem loadPacket_distRes : (s.loadPacket len p).distRes = s.distRes := rfl
@[simp] theorem loadPacket_distMax : (s.loadPacket len p).distMax = s.distMax := rfl
@[simp] theorem loadPacket_emitCtrl : (s.loadPacket len p).emitCtrl = s.emitCtrl := rfl
@[simp] theorem loadPacket_activeCh : (s.loadPacket len p).activeCh = s.activeCh := rfl
@[simp] theorem loadPacket_mode : (s.loadPacket len p).mode = s.mode := rfl
@[simp] theorem loadPacket_firstSweep : (s.loadPacket len p).firstSweep = s.firstSweep := rfl
@[simp] theorem loadPacket_sweepOvf : (s.loadPacket len p).sweepOvf = s.sweepOvf := rfl
@[simp] theorem loadPacket_accState : (s.loadPacket len p).accState = s.accState := rfl
@[simp] theorem loadPacket_lastAz : (s.loadPacket len p).lastAz = s.lastAz := rfl
@[simp] theorem loadPacket_sweep : (s.loadPacket len p).sweep = s.sweep := rfl
@[simp] theorem loadPacket_sweepStartTs : (s.loadPacket len p).sweepStartTs = s.sweepStartTs := rfl
@[simp] theorem loadPacket_out : (s.loadPacket len p).out = s.out := rfl
@[simp] theorem loadPacket_work_phase : (s.loadPacket len p).work.phase = s.work.phase := rfl
@[simp] theorem loadPacket_work_k : (s.loadPacket len p).work.k = s.work.k := rfl
@[simp] theorem loadPacket_work_j : (s.loadPacket len p).work.j = s.work.j := rfl
@[simp] theorem loadPacket_work_c : (s.loadPacket len p).work.c = s.work.c := rfl
@[simp] theorem loadPacket_work_cmd : (s.loadPacket len p).work.cmd = s.work.cmd := rfl
@[simp] theorem loadPacket_work_pktLen : (s.loadPacket len p).work.pktLen = len := rfl
@[simp] theorem loadPacket_work_hdr : (s.loadPacket len p).work.hdr = s.work.hdr := rfl
@[simp] theorem loadPacket_work_hdrPrev : (s.loadPacket len p).work.hdrPrev = s.work.hdrPrev := rfl
@[simp] theorem loadPacket_work_ts : (s.loadPacket len p).work.ts = s.work.ts := rfl
@[simp] theorem loadPacket_work_factory : (s.loadPacket len p).work.factory = s.work.factory := rfl
@[simp] theorem loadPacket_work_b : (s.loadPacket len p).work.b = s.work.b := rfl
@[simp] theorem loadPacket_work_d : (s.loadPacket len p).work.d = s.work.d := rfl
@[simp] theorem loadPacket_work_delta : (s.loadPacket len p).work.delta = s.work.delta := rfl
@[simp] theorem loadPacket_work_fir : (s.loadPacket len p).work.fir = s.work.fir := rfl
@[simp] theorem loadPacket_work_boundary : (s.loadPacket len p).work.boundary = s.work.boundary := rfl
@[simp] theorem loadPacket_work_valid : (s.loadPacket len p).work.valid = s.work.valid := rfl
@[simp] theorem loadPacket_work_idx : (s.loadPacket len p).work.idx = s.work.idx := rfl
@[simp] theorem loadPacket_work_hr : (s.loadPacket len p).work.hr = s.work.hr := rfl
@[simp] theorem loadPacket_work_x : (s.loadPacket len p).work.x = s.work.x := rfl
@[simp] theorem loadPacket_work_y : (s.loadPacket len p).work.y = s.work.y := rfl
@[simp] theorem loadPacket_work_z : (s.loadPacket len p).work.z = s.work.z := rfl
@[simp] theorem loadPacket_work_t : (s.loadPacket len p).work.t = s.work.t := rfl
end loadPacket

section recordAz
@[simp] theorem recordAz_cfg : (recordAz s).cfg = s.cfg := rfl
@[simp] theorem recordAz_inbox : (recordAz s).inbox = s.inbox := rfl
@[simp] theorem recordAz_minRange : (recordAz s).minRange = s.minRange := rfl
@[simp] theorem recordAz_maxRange : (recordAz s).maxRange = s.maxRange := rfl
@[simp] theorem recordAz_angleDisableMin : (recordAz s).angleDisableMin = s.angleDisableMin := rfl
@[simp] theorem recordAz_angleDisableMax : (recordAz s).angleDisableMax = s.angleDisableMax := rfl
@[simp] theorem recordAz_angle3DisableMin : (recordAz s).angle3DisableMin = s.angle3DisableMin := rfl
@[simp] theorem recordAz_angle3DisableMax : (recordAz s).angle3DisableMax = s.angle3DisableMax := rfl
@[simp] theorem recordAz_distRes : (recordAz s).distRes = s.distRes := rfl
@[simp] theorem recordAz_distMax : (recordAz s).distMax = s.distMax := rfl
@[simp] theorem recordAz_emitCtrl : (recordAz s).emitCtrl = s.emitCtrl := rfl
@[simp] theorem recordAz_activeCh : (recordAz s).activeCh = s.activeCh := rfl
@[simp] theorem recordAz_mode : (recordAz s).mode = s.mode := rfl
@[simp] theorem recordAz_firstSweep : (recordAz s).firstSweep = s.firstSweep := rfl
@[simp] theorem recordAz_sweepOvf : (recordAz s).sweepOvf = s.sweepOvf := rfl
@[simp] theorem recordAz_accState : (recordAz s).accState = s.accState := rfl
@[simp] theorem recordAz_lastAz : (recordAz s).lastAz = s.work.firing.fa := rfl
@[simp] theorem recordAz_sweep : (recordAz s).sweep = s.sweep := rfl
@[simp] theorem recordAz_sweepStartTs : (recordAz s).sweepStartTs = s.sweepStartTs := rfl
@[simp] theorem recordAz_out : (recordAz s).out = s.out := rfl
@[simp] theorem recordAz_work : (recordAz s).work = s.work := rfl
end recordAz

end Sys2Proof.Machine
end

