-- ==== Sys2Proof/Laws/Ops.lean ====
section
/-! SUPPORT. One lemma per shared operation that says once everything it can do, in terms of the fields it writes. -/

namespace Sys2Proof.Machine

/-! ### Raising a diagnostic -/

/-- A cause that ends the command: one event, the block in IDLE, nothing else. -/
theorem raise_endsCommand {s : State} {c : Cause} (h : causeClass c = .endsCommand) :
    s.raise c = { s with out := s.out ++ [.diag c.code (s.info c)], work := Work.idle } := by
  unfold State.raise; rw [h]; rfl

/-- A cause after which processing continues: one event, nothing else. -/
theorem raise_continues {s : State} {c : Cause} (h : causeClass c = .continues) :
    s.raise c = { s with out := s.out ++ [.diag c.code (s.info c)] } := by
  unfold State.raise; rw [h]; rfl

/-- A fatal cause: one event, MODE FAILED, the block in IDLE. -/
theorem raise_fatal {s : State} {c : Cause} (h : causeClass c = .fatal) :
    s.raise c = { s with out := s.out ++ [.diag c.code (s.info c)], mode := .failed, work := Work.idle } := by
  unfold State.raise; rw [h]; rfl

@[simp] theorem enter_eq_seek (s : State) (p : Phase) : s.enter p = s.seek p s.work.k s.work.j s.work.c := rfl

theorem seek_eq (s : State) (p : Phase) (k : Fin 12) (j : Fin 2) (c : Fin 16) :
    s.seek p k j c = { s with work := { s.work with phase := p, k := k, j := j, c := c } } := rfl

theorem busy_iff {s : State} : s.busy = true ↔ s.work.phase ≠ .idle := by simp [State.busy]

theorem not_busy_iff {s : State} : s.busy = false ↔ s.work.phase = .idle := by simp [State.busy]

@[simp] theorem endCommand_busy (s : State) : s.endCommand.busy = false := rfl

/-! ### Validator -/

/-- VAL.SIZE passes and changes nothing, or reports BAD_SIZE and ends the command. -/
theorem valSize_spec (s : State) : valSize s =
    if s.work.pktLen.toNat = packetBytes then s
    else { s with out := s.out ++ [.diag 1 (s.work.pktLen.setWidth 32)], work := Work.idle } := by
  unfold valSize
  by_cases h : s.work.pktLen.toNat = packetBytes
  · rw [if_neg (by simp [h]), if_pos h]
  · rw [if_pos h, if_neg h, raise_endsCommand rfl]; rfl

/-- VAL.HDR loads the header, and reports BAD_HEADER and ends the command when it is no sentinel. -/
theorem valHdr_spec (s : State) : valHdr s =
    if s.work.header s.work.k ≠ s.cfg.bankUpper ∧ s.work.header s.work.k ≠ s.cfg.bankLower then
      { s with out := s.out ++ [.diag 2 (BitVec.ofNat 32 s.work.k.val)], work := Work.idle }
    else { s with work := { s.work with hdr := s.work.header s.work.k } } := by
  unfold valHdr; dsimp only; split
  · rw [raise_endsCommand rfl]; rfl
  · rfl

/-- VAL.ALT records the header, or reports BAD_ALTERNATION and ends the command. -/
theorem valAlt_spec (s : State) : valAlt s =
    if 0 < s.work.k.val ∧ s.work.hdr = s.work.hdrPrev then
      { s with out := s.out ++ [.diag 3 (BitVec.ofNat 32 s.work.k.val)], work := Work.idle }
    else { s with work := { s.work with hdrPrev := s.work.hdr } } := by
  unfold valAlt; split
  · rw [raise_endsCommand rfl]; rfl
  · rfl

/-- The two checks of one block. -/
theorem checkBlock_spec (s : State) (k : Fin 12) : checkBlock s k =
    if s.work.header k ≠ s.cfg.bankUpper ∧ s.work.header k ≠ s.cfg.bankLower then
      { s with out := s.out ++ [.diag 2 (BitVec.ofNat 32 k.val)], work := Work.idle }
    else if 0 < k.val ∧ s.work.header k = s.work.hdrPrev then
      { s with out := s.out ++ [.diag 3 (BitVec.ofNat 32 k.val)], work := Work.idle }
    else { s with work := { s.work with
            phase := .valAlt, k := k, j := 0, c := 0, hdr := s.work.header k, hdrPrev := s.work.header k } } := by
  unfold checkBlock; dsimp only
  rw [valHdr_spec]
  have hh : (s.seek .valHdr k 0 0).work.header k = s.work.header k := rfl
  simp only [seek_work_k, hh, seek_cfg]
  by_cases h1 : s.work.header k ≠ s.cfg.bankUpper ∧ s.work.header k ≠ s.cfg.bankLower
  · rw [if_pos h1, if_pos h1]; rfl
  · rw [if_neg h1, if_neg h1, if_pos (by rfl), valAlt_spec]; rfl

/-! ### Decoder -/

/-- ROTLD writes B[k], clamped, and reports a rotation above 35999. -/
theorem rotld_spec (s : State) : rotld s =
    { s with
      out := s.out ++ (if (s.work.rot s.work.k).toNat > rotMax then
        [.diag 4 (((s.work.rot s.work.k).setWidth 32 <<< 16) ||| BitVec.ofNat 32 s.work.k.val)] else [])
      work := { s.work with b := s.work.b.set s.work.k <|
        (if (s.work.rot s.work.k).toNat > rotMax then BitVec.ofNat 16 rotMax else s.work.rot s.work.k) } } := by
  unfold rotld; dsimp only; split
  · rw [raise_continues rfl]; rfl
  · simp

/-- R15: `wrap` is the remainder, and below its modulus. -/
theorem wrap_lt (v : Int) {m : Nat} (h : 0 < m) : wrap v m < m := by
  unfold wrap; have := Int.emod_nonneg v (b := m) (by omega); have := Int.emod_lt_of_pos v (b := m) (by omega); omega

theorem wrap_cast (v : Int) {m : Nat} (h : 0 < m) : ((wrap v m : Nat) : Int) = v % (m : Int) := by
  unfold wrap; have := Int.emod_nonneg v (b := m) (by omega); omega

/-! ### Accumulator and assembler -/

/-- BOUNDARY writes its variable and, on a boundary, ACC_STATE. -/
theorem boundary_spec (s : State) : boundary s =
    { s with
      accState := if s.crosses s.work.firing.fa then .boundaryJustCrossed else s.accState
      work := { s.work with boundary := s.crosses s.work.firing.fa } } := by
  unfold boundary; dsimp only; split <;> rfl

theorem foldl_emit (l : List Ch) (f : Ch → Event) (s : State) :
    l.foldl (fun t ch => t.emit (f ch)) s = { s with out := s.out ++ l.map f } := by
  induction l generalizing s with
  | nil => simp
  | cons ch l ih => rw [List.foldl_cons, ih]; simp [State.emit]

/-- EMIT.SCAN appends its events and changes nothing else. -/
theorem emitScan_spec (s : State) : emitScan s =
    { s with out := s.out ++
        (if s.singleLayer then [scanEvent s.sweep s.activeCh] else channelNumbers.map (scanEvent s.sweep)) } := by
  unfold emitScan; split
  · rfl
  · rw [foldl_emit]

/-- EMIT appends the events of the sweep and leaves the name of the last phase it ran, if it ran one; nothing else changes. -/
theorem emitSweep_spec (s : State) : emitSweep s =
    { s with
      out := s.out ++ s.emission
      work := { s.work with
        phase := if s.scanEn then .emitScan else if s.cloudEn then .emitBatch else s.work.phase } } := by
  unfold emitSweep State.emission; dsimp only
  cases hc : s.cloudEn <;> cases hs : s.scanEn
  · simp [hs]
  · simp only [Bool.false_eq_true, if_false, hs, if_true, emitScan_spec]; rfl
  · rw [if_pos rfl, if_neg]
    · simp [emitBatch, State.emit, State.seek]
    · simpa [State.scanEn, emitBatch] using hs
  · have : (emitBatch (s.enter .emitBatch)).scanEn = true := hs
    rw [if_pos rfl, if_pos this, emitScan_spec]
    simp [emitBatch, State.emit, State.seek, State.singleLayer]

/-- FINALIZE clears FIRST_SWEEP at the first boundary and emits at every other one. -/
theorem finalize_spec (s : State) : finalize s =
    if s.firstSweep then { s with firstSweep := false }
    else { s with
      out := s.out ++ s.emission
      work := { s.work with
        phase := if s.scanEn then .emitScan else if s.cloudEn then .emitBatch else s.work.phase } } := by
  unfold finalize; rw [emitSweep_spec]

/-- APPEND stores the entry, or loses it in silence, or loses it and reports the first loss. -/
theorem append_spec (s : State) : append s =
    if s.hasRoom then { s with sweep := s.sweep ++ [s.work.entry] }
    else if s.sweepOvf then s
    else { s with sweepOvf := true, out := s.out ++ [.diag 9 0] } := by
  unfold append; split
  · rfl
  · split
    · rfl
    · rw [raise_continues rfl]; rfl

/-- FLT.RANGE and FLT.AZ together: VALID is the conjunction of the two filters. -/
theorem filters_spec (s : State) (k : Fin 12) (j : Fin 2) (c : Fin 16) :
    fltAz ((fltRange (s.seek .fltRange k j c)).seek .fltAz k j c) =
      { s with work := { s.work with
          phase := .fltAz, k := k, j := j, c := c
          valid := s.inRange (s.work.fir[firingIndex k j].dist[c]) && !s.masked (s.work.fir[firingIndex k j].az[c]) } } := rfl

/-! ### Commands -/

/-- The configuration write touches the addressed register only; address 9 and above write nothing. -/
theorem writeConfig_cases (s : State) (a : BitVec 12) (d : BitVec 32) :
    (a.toNat = 0 ∧ writeConfig s a d = { s with minRange := d.extractLsb' 0 31 }) ∨
    (a.toNat = 1 ∧ writeConfig s a d = { s with maxRange := d.extractLsb' 0 31 }) ∨
    (a.toNat = 2 ∧ writeConfig s a d = { s with angleDisableMin := d.extractLsb' 0 21 }) ∨
    (a.toNat = 3 ∧ writeConfig s a d = { s with angleDisableMax := d.extractLsb' 0 21 }) ∨
    (a.toNat = 4 ∧ writeConfig s a d = { s with angle3DisableMin := d.extractLsb' 0 21 }) ∨
    (a.toNat = 5 ∧ writeConfig s a d = { s with angle3DisableMax := d.extractLsb' 0 21 }) ∨
    (a.toNat = 6 ∧ writeConfig s a d = { s with distRes := d.extractLsb' 0 15 }) ∨
    (a.toNat = 7 ∧ writeConfig s a d = { s with distMax := d.extractLsb' 0 31 }) ∨
    (a.toNat = 8 ∧ writeConfig s a d = { s with emitCtrl := d.extractLsb' 0 3 }) ∨
    (8 < a.toNat ∧ writeConfig s a d = s) := by
  unfold writeConfig
  split <;> simp_all
  omega

end Sys2Proof.Machine
end

