-- ==== Sys2Proof/Laws/Decoder.lean ====
section
/-! SUPPORT. One lemma per operation of the decoder that says once which entry it writes and with what. -/

namespace Sys2Proof.Machine

theorem toNat_wrap (v : Int) {m n : Nat} (h : 0 < m) (hn : m ≤ 2 ^ n) : ((BitVec.ofNat n (wrap v m)).toNat : Int) = v % m := by
  have := wrap_lt v h
  rw [BitVec.toNat_ofNat, Nat.mod_eq_of_lt (by omega), wrap_cast v h]

/-- DELTA(k) writes D[k] and nothing else. -/
theorem delta_spec (s : State) : ∃ v : BitVec 16, delta s = { s with work := { s.work with d := s.work.d.set s.work.k v } } ∧
    (∀ h : s.work.k.val + 1 < 12,
      (v.toNat : Int) = ((s.work.b[s.work.k.val + 1].toNat : Int) - (s.work.b[s.work.k].toNat : Int)) % 36000) ∧
    (¬ s.work.k.val + 1 < 12 → v = s.work.d[10]) := by
  refine ⟨_, rfl, fun h => ?_, fun h => dif_neg h⟩
  rw [dif_pos h]; exact toNat_wrap _ (by decide) (by decide)

/-- FIRBASE(k) writes the base azimuths of the two firings of block k and nothing else. -/
theorem firbase_spec (s : State) : ∃ f0 f1 : Firing,
    firbase s = (s.setFiring (firingIndex s.work.k 0) f0).setFiring (firingIndex s.work.k 1) f1 ∧
    f0 = { s.work.fir[firingIndex s.work.k 0] with fa := f0.fa } ∧
    f1 = { s.work.fir[firingIndex s.work.k 1] with fa := f1.fa } ∧
    f0.fa.toNat = 32 * s.work.b[s.work.k].toNat ∧
    f1.fa.toNat = (32 * s.work.b[s.work.k].toNat + 16 * s.work.d[s.work.k].toNat) % fullTurn := by
  have hb := s.work.b[s.work.k].isLt
  refine ⟨_, _, rfl, rfl, ?_, ?_, ?_⟩
  · rw [setFiring_fir, if_neg (firingIndex_ne _)]
  · rw [BitVec.toNat_ofNat]; omega
  · simp only [BitVec.toNat_ofNat]; unfold fullTurn; omega

/-- FDELTA(g) writes DELTA[g] and nothing else. -/
theorem fdelta_spec (s : State) : ∃ v : Az, fdelta s =
      { s with work := { s.work with delta := s.work.delta.set s.work.g v } } ∧
    (∀ h : s.work.g.val + 1 < 24, (v.toNat : Int) =
      ((s.work.fir[s.work.g.val + 1].fa.toNat : Int) - (s.work.fir[s.work.g].fa.toNat : Int)) % fullTurn) ∧
    (¬ s.work.g.val + 1 < 24 → (v.toNat : Int) =
      ((s.work.fir[23].fa.toNat : Int) - (s.work.fir[22].fa.toNat : Int)) % fullTurn) := by
  refine ⟨_, rfl, fun h => ?_, fun h => ?_⟩
  · rw [dif_pos h]; exact toNat_wrap _ (by decide) (by decide)
  · rw [dif_neg h]; exact toNat_wrap _ (by decide) (by decide)

/-- R97: a raw distance times DIST_RES fits a length. -/
theorem dist_product (r : BitVec 16) (d : BitVec 15) : (BitVec.ofNat 31 (r.toNat * d.toNat)).toNat = r.toNat * d.toNat := by
  have : r.toNat * d.toNat ≤ 65535 * 32767 :=
    Nat.mul_le_mul (by have := r.isLt; omega) (by have := d.isLt; omega)
  rw [BitVec.toNat_ofNat]; omega

/-- CHDEC(g, c) writes DIST[c] and INT[c] of the firing in hand and nothing else. -/
theorem chdec_spec (s : State) : ∃ v : Len,
    chdec s = s.setFiring s.work.g { s.work.fir[s.work.g] with
      dist := s.work.fir[s.work.g].dist.set s.work.c v
      int := s.work.fir[s.work.g].int.set s.work.c (s.work.rawInt s.work.k s.work.j s.work.c) } ∧
    v.toNat = (s.work.rawDist s.work.k s.work.j s.work.c).toNat * s.distRes.toNat :=
  ⟨_, rfl, dist_product _ _⟩

/-- INTERP(g, c) writes AZ[c] of the firing in hand and nothing else. -/
theorem interp_spec (s : State) : ∃ v : Az,
    interp s = s.setFiring s.work.g { s.work.fir[s.work.g] with az := s.work.fir[s.work.g].az.set s.work.c v } ∧
    v.toNat = (s.work.fir[s.work.g].fa.toNat + correction s.cfg s.work.delta[s.work.g] s.work.c) % fullTurn := by
  refine ⟨_, rfl, ?_⟩
  rw [BitVec.toNat_ofNat]; unfold fullTurn; exact Nat.mod_eq_of_lt (by omega)

/-- The check of one block is all or nothing: after a failure no later block is looked at. -/
theorem foldl_checkBlock_idle (l : List (Fin 12)) {s : State} (h : s.busy = false) :
    l.foldl (fun s k => if s.busy then checkBlock s k else s) s = s := by
  induction l with
  | nil => rfl
  | cons k l ih => rw [List.foldl_cons, h]; exact ih

end Sys2Proof.Machine
end

