-- ==== Sys2Proof/Laws/Transform.lean ====
section
/-! SUPPORT. The transformer's arithmetic: a rounded product with a ROM value never exceeds its other factor, the coordinates and
times fit their formats, and what one reading leaves behind. -/

namespace Sys2Proof.Machine

/-- R14, R184: a rounded product with a ROM entry is no larger than the other factor. -/
theorem rnd16_natAbs_le (d t : Int) (ht : t.natAbs ≤ trigOne) : (rnd16 (d * t)).natAbs ≤ d.natAbs := by
  unfold trigOne at ht
  have h1 := rnd16_spec (d * t)
  rcases Int.le_total 0 d with h | h
  · have a : d * t ≤ d * 65536 := Int.mul_le_mul_of_nonneg_left (by omega) h
    have b : d * (-65536) ≤ d * t := Int.mul_le_mul_of_nonneg_left (by omega) h
    omega
  · have a : (-d) * t ≤ (-d) * 65536 := Int.mul_le_mul_of_nonneg_left (by omega) (by omega)
    have b : (-d) * (-65536) ≤ (-d) * t := Int.mul_le_mul_of_nonneg_left (by omega) (by omega)
    simp only [Int.neg_mul] at a b
    omega

/-- R11: a value no larger than a length fits a coordinate. -/
theorem toInt_ofInt_coord {v : Int} {d : Len} (h : v.natAbs ≤ d.toNat) : (BitVec.ofInt 32 v).toInt = v := by
  have := d.isLt
  rw [BitVec.toInt_ofInt]
  apply Int.bmod_eq_of_le <;> omega

/-- R12: no time of a packet comes near the top of its format. -/
theorem firingTime_lt {cfg : Config} (h : paramsOk cfg = true) (ts : BitVec 32) (g : Fin 24) (c : Fin 16) :
    firingTime cfg ts g + c.val * cfg.tDsr < 2 ^ 49 := by
  obtain ⟨_, h1, ⟨_, h2⟩, ⟨_, h3⟩, _⟩ := paramsOk_iff.1 h
  have a : ts.toNat * cfg.tsScale ≤ 2 ^ 32 * 2 ^ 16 := Nat.mul_le_mul ts.isLt.le h3.le
  have b : g.val * cfg.tFiring ≤ 23 * 2 ^ 24 := Nat.mul_le_mul (by have := g.isLt; omega) h2.le
  have d : c.val * cfg.tDsr ≤ 15 * 2 ^ 20 := Nat.mul_le_mul (by have := c.isLt; omega) h1.le
  unfold firingTime; omega

/-- AZIDX writes IDX and nothing else. -/
theorem azidx_spec (s : State) : ∃ i, azidx s = { s with work := { s.work with idx := i } } ∧
    i.toNat = ((s.work.fir[s.work.g].az[s.work.c]).toNat + 16) / 32 % 36000 := by
  refine ⟨_, rfl, ?_⟩
  rw [BitVec.toNat_ofNat]
  have h : ∀ n, n % turnHundredths % 2 ^ 16 = n % 36000 := by intro n; unfold turnHundredths; omega
  exact h _

/-- XFORM writes HR, X, Y and Z and nothing else. -/
theorem xform_spec (s : State) : ∃ hr x y z : Coord,
    xform s = { s with work := { s.work with hr := hr, x := x, y := y, z := z } } ∧
    hr = BitVec.ofInt 32 (rnd16 ((s.work.fir[s.work.g].dist[s.work.c]).toNat * altCos s.cfg s.work.c)) ∧
    x = BitVec.ofInt 32 (rnd16 (hr.toInt * azCos s.cfg s.work.idx.toNat)) ∧
    y = BitVec.ofInt 32 (rnd16 (hr.toInt * azSin s.cfg s.work.idx.toNat)) ∧
    z = BitVec.ofInt 32 (rnd16 ((s.work.fir[s.work.g].dist[s.work.c]).toNat * altSin s.cfg s.work.c)) :=
  ⟨_, _, _, _, rfl, rfl, rfl, rfl, rfl⟩

/-- TSTAMP writes T and nothing else. -/
theorem tstamp_spec (s : State) : ∃ v : Time, tstamp s = { s with work := { s.work with t := v } } ∧
    v = BitVec.ofNat 64 (firingTime s.cfg s.work.ts s.work.g + s.work.c.val * s.cfg.tDsr) := ⟨_, rfl, rfl⟩

/-- R184 and R185 in closed form: with an accepted parameter set the point of a reading is `pointOf` of its distance, azimuth,
intensity and time, HR losing no bit on the way. -/
theorem pointOf_of_steps {cfg : Config} (h : paramsOk cfg = true) (d : Len) (a : Nat) (int : Byte) (c : Fin 16)
    (time idx : Nat) (hi : idx = (a + 16) / 32 % 36000) :
    pointOf cfg d.toNat a int c time =
      { x := BitVec.ofInt 32 (rnd16 ((BitVec.ofInt 32 (rnd16 (d.toNat * altCos cfg c))).toInt * azCos cfg idx))
        y := BitVec.ofInt 32 (rnd16 ((BitVec.ofInt 32 (rnd16 (d.toNat * altCos cfg c))).toInt * azSin cfg idx))
        z := BitVec.ofInt 32 (rnd16 (d.toNat * altSin cfg c))
        intensity := int, channel := BitVec.ofNat 4 c.val, tstamp := BitVec.ofNat 64 time } := by
  rw [toInt_ofInt_coord (rnd16_natAbs_le d.toNat _ (altRom_natAbs_le h c).2), hi]
  rfl

/-- The transform of one reading writes only the transient state, and of that neither the packet nor the decoded firings; with an
accepted parameter set the entry it leaves holds the reading's azimuth and point. -/
theorem transform_spec (s : State) (k : Fin 12) (j : Fin 2) (c : Fin 16) : ∃ w : Work,
    (tstamp ((xform ((azidx (s.seek .azidx k j c)).seek .xform k j c)).seek .tstamp k j c)).seek .append k j c =
      { s with work := w } ∧
    w.pkt = s.work.pkt ∧ w.ts = s.work.ts ∧ w.fir = s.work.fir ∧ w.phase = .append ∧ w.k = k ∧ w.j = j ∧ w.c = c ∧
    (paramsOk s.cfg = true →
      w.entry = {
        azKey := s.work.fir[firingIndex k j].az[c]
        point := pointOf s.cfg (s.work.fir[firingIndex k j].dist[c]).toNat (s.work.fir[firingIndex k j].az[c]).toNat
          (s.work.fir[firingIndex k j].int[c]) c (timeOf s.cfg s.work.ts.toNat k.val j.val c.val) }) := by
  obtain ⟨i, hi, hidx⟩ := azidx_spec (s.seek .azidx k j c)
  rw [hi]
  obtain ⟨hr, x, y, z, hx, ehr, ex, ey, ez⟩ := xform_spec (({ s.seek .azidx k j c with
    work := { (s.seek .azidx k j c).work with idx := i } } : State).seek .xform k j c)
  rw [hx]
  simp only [seek_eq]
  obtain ⟨v, hv, ev⟩ := tstamp_spec { s with work := { s.work with
    phase := .tstamp, k := k, j := j, c := c, idx := i, hr := hr, x := x, y := y, z := z } }
  rw [hv]
  refine ⟨_, rfl, rfl, rfl, rfl, rfl, rfl, rfl, rfl, fun hp => ?_⟩
  subst ehr ex ey ez ev
  exact congrArg (SweepEntry.mk _) (pointOf_of_steps hp _ _ _ _ _ _ hidx).symm

/-- One reading: dropped, it writes only the transient state; kept, it is appended, lost in silence, or lost with a report. -/
theorem processReading_cases (s : State) (k : Fin 12) (j : Fin 2) (c : Fin 16) :
    ∃ w : Work, w.pkt = s.work.pkt ∧ w.ts = s.work.ts ∧ w.fir = s.work.fir ∧ w.phase ≠ .idle ∧
      ((processReading s k j c = { s with work := w }) ∨
       (∃ e : SweepEntry, s.hasRoom = true ∧ e.azKey = s.work.fir[firingIndex k j].az[c] ∧
          processReading s k j c = { s with sweep := s.sweep ++ [e], work := w }) ∨
       (s.hasRoom = false ∧ s.sweepOvf = false ∧
          processReading s k j c = { s with sweepOvf := true, out := s.out ++ [.diag 9 0], work := w })) := by
  unfold processReading; dsimp only
  rw [filters_spec]
  split
  · generalize hv : { s with work := { s.work with
          phase := Phase.fltAz, k := k, j := j, c := c
          valid := s.inRange (s.work.fir[firingIndex k j].dist[c]) && !s.masked (s.work.fir[firingIndex k j].az[c]) } } = u
    have hu : u = { s with work := u.work } ∧ u.work.pkt = s.work.pkt ∧ u.work.ts = s.work.ts ∧ u.work.fir = s.work.fir := by
      subst hv; exact ⟨rfl, rfl, rfl, rfl⟩
    obtain ⟨h0, h1, h2, h3⟩ := hu
    obtain ⟨w, hw, e1, e2, e3, e4, e5, e6, e7, -⟩ := transform_spec u k j c
    refine ⟨w, e1.trans h1, e2.trans h2, e3.trans h3, by rw [e4]; decide, ?_⟩
    rw [hw, h0, append_spec]
    have hr : ({ s with work := w } : State).hasRoom = s.hasRoom := rfl
    by_cases h : s.hasRoom = true
    · refine .inr (.inl ⟨w.entry, h, ?_, by rw [if_pos (hr.trans h)]⟩)
      subst e5 e6 e7
      show w.fir[firingIndex w.k w.j].az[w.c] = _
      rw [e3, h3]
    · have h' : s.hasRoom = false := by simpa using h
      rw [if_neg (by rw [hr]; exact h)]
      cases ho : s.sweepOvf
      · exact .inr (.inr ⟨h', rfl, if_neg (by simp)⟩)
      · exact .inl (by rw [if_pos rfl])
  · exact ⟨{ s.work with
      phase := .fltAz, k := k, j := j, c := c
      valid := s.inRange (s.work.fir[firingIndex k j].dist[c]) && !s.masked (s.work.fir[firingIndex k j].az[c]) },
      rfl, rfl, rfl, Phase.noConfusion, .inl rfl⟩

end Sys2Proof.Machine
end

