-- ==== Sys2Proof/Laws/Frame.lean ====
section
/-! SUPPORT. What every operation of the pipeline leaves alone: the setup, and the events already emitted. One lemma per
operation, one for a loop, and so one for RECV. -/

namespace Sys2Proof.Machine

/-- The setup is untouched and events are only added. -/
structure Grows (s t : State) : Prop where
  setup : SameSetup s t
  out : s.out <+: t.out

theorem SameSetup.refl (s : State) : SameSetup s s := by constructor <;> rfl

theorem SameSetup.trans {s t u : State} (h : SameSetup s t) (h' : SameSetup t u) : SameSetup s u :=
  ⟨h'.cfg.trans h.cfg, h'.inbox.trans h.inbox, h'.minRange.trans h.minRange, h'.maxRange.trans h.maxRange,
    h'.angleDisableMin.trans h.angleDisableMin, h'.angleDisableMax.trans h.angleDisableMax,
    h'.angle3DisableMin.trans h.angle3DisableMin, h'.angle3DisableMax.trans h.angle3DisableMax,
    h'.distRes.trans h.distRes, h'.distMax.trans h.distMax, h'.emitCtrl.trans h.emitCtrl,
    h'.activeCh.trans h.activeCh, h'.mode.trans h.mode⟩

theorem Grows.refl (s : State) : Grows s s := ⟨SameSetup.refl s, List.prefix_rfl⟩

theorem Grows.trans {s t u : State} (h : Grows s t) (h' : Grows t u) : Grows s u :=
  ⟨h.setup.trans h'.setup, h.out.trans h'.out⟩

/-- A change of the transient state alone. -/
theorem grows_work (s : State) (w : Work) : Grows s { s with work := w } :=
  ⟨by constructor <;> rfl, List.prefix_rfl⟩

theorem grows_seek (s : State) (p : Phase) (k : Fin 12) (j : Fin 2) (c : Fin 16) : Grows s (s.seek p k j c) := grows_work s _

theorem grows_endCommand (s : State) : Grows s s.endCommand := grows_work s _

theorem grows_emit (s : State) (e : Event) : Grows s (s.emit e) :=
  ⟨by constructor <;> rfl, List.prefix_append _ _⟩

/-- A cause that is not fatal. -/
theorem grows_raise (s : State) {c : Cause} (h : causeClass c ≠ .fatal) : Grows s (s.raise c) := by
  cases hc : causeClass c
  · exact (congrArg (Grows s) (by unfold State.raise; rw [hc])).mpr ((grows_emit s _).trans (grows_endCommand _))
  · exact (congrArg (Grows s) (by unfold State.raise; rw [hc])).mpr (grows_emit s _)
  · exact absurd hc h

theorem grows_ite {s t u : State} {p : Prop} [Decidable p] (ht : Grows s t) (hu : Grows s u) :
    Grows s (if p then t else u) := by split <;> assumption

/-- A loop whose body grows. -/
theorem grows_foldl {α : Type} (l : List α) (f : State → α → State) (h : ∀ s a, Grows s (f s a)) (s : State) :
    Grows s (l.foldl f s) := by
  induction l generalizing s with
  | nil => exact Grows.refl s
  | cons a l ih => exact (h s a).trans (ih _)

/-! ### The operations -/

theorem grows_valSize (s : State) : Grows s (valSize s) := grows_ite (grows_raise s (by decide)) (Grows.refl s)

theorem grows_valHdr (s : State) : Grows s (valHdr s) :=
  grows_ite ((grows_work s _).trans (grows_raise _ (by decide))) (grows_work s _)

theorem grows_valAlt (s : State) : Grows s (valAlt s) := grows_ite (grows_raise s (by decide)) (grows_work s _)

theorem grows_checkBlock (s : State) (k : Fin 12) : Grows s (checkBlock s k) :=
  ((grows_seek s .valHdr k 0 0).trans (grows_valHdr _)).trans
    (grows_ite ((grows_seek _ .valAlt k 0 0).trans (grows_valAlt _)) (Grows.refl _))

theorem grows_validate (s : State) : Grows s (validate s) :=
  ((grows_seek s .valSize 0 0 0).trans (grows_valSize _)).trans
    (grows_foldl _ _ (fun s k => grows_ite (grows_checkBlock s k) (Grows.refl s)) _)

theorem grows_tsld (s : State) : Grows s (tsld s) := grows_work s _

theorem grows_rotld (s : State) : Grows s (rotld s) :=
  (grows_ite (grows_raise s (by decide)) (Grows.refl s)).trans (grows_work _ _)

theorem grows_delta (s : State) : Grows s (delta s) := grows_work s _

theorem grows_firbase (s : State) : Grows s (firbase s) := grows_work s _

theorem grows_fdelta (s : State) : Grows s (fdelta s) := grows_work s _

theorem grows_chdec (s : State) : Grows s (chdec s) := grows_work s _

theorem grows_interp (s : State) : Grows s (interp s) := grows_work s _

theorem grows_decodeBases (s : State) : Grows s (decodeBases s) := by
  unfold decodeBases; dsimp only
  refine Grows.trans ?_ (grows_foldl firings _ (fun s kj => (grows_seek s .fdelta kj.1 kj.2 0).trans (grows_fdelta _)) _)
  refine Grows.trans ?_ (grows_foldl blocks _ (fun s k => (grows_seek s .firbase k 0 0).trans (grows_firbase _)) _)
  refine Grows.trans ?_ (grows_foldl blocks _ (fun s k => (grows_seek s .delta k 0 0).trans (grows_delta _)) _)
  refine Grows.trans ?_ (grows_foldl blocks _ (fun s k => (grows_seek s .rotld k 0 0).trans (grows_rotld _)) _)
  exact (grows_seek s .tsld 0 0 0).trans (grows_tsld _)

theorem grows_decodeReading (s : State) (k : Fin 12) (j : Fin 2) (c : Fin 16) : Grows s (decodeReading s k j c) :=
  (((grows_seek s .chdec k j c).trans (grows_chdec _)).trans (grows_seek _ .interp k j c)).trans (grows_interp _)

theorem grows_decodePacket (s : State) : Grows s (decodePacket s) := by
  unfold decodePacket
  exact (grows_decodeBases s).trans (grows_foldl firings _
    (fun s kj => grows_foldl channels _ (fun s c => grows_decodeReading s kj.1 kj.2 c) s) _)

theorem grows_boundary (s : State) : Grows s (boundary s) := by
  rw [boundary_spec]; exact ⟨by constructor <;> rfl, List.prefix_rfl⟩

theorem grows_finalize (s : State) : Grows s (finalize s) := by
  rw [finalize_spec]
  exact grows_ite ⟨by constructor <;> rfl, List.prefix_rfl⟩ ⟨by constructor <;> rfl, List.prefix_append _ _⟩

theorem grows_newsweep (s : State) : Grows s (newsweep s) := ⟨by constructor <;> rfl, List.prefix_rfl⟩

theorem grows_recordAz (s : State) : Grows s (recordAz s) := ⟨by constructor <;> rfl, List.prefix_rfl⟩

theorem grows_openFiring (s : State) (k : Fin 12) (j : Fin 2) : Grows s (openFiring s k j) :=
  (((grows_seek s .boundary k j 0).trans (grows_boundary _)).trans
    (grows_ite ((((grows_seek _ .finalize k j 0).trans (grows_finalize _)).trans (grows_seek _ .newsweep k j 0)).trans
      (grows_newsweep _)) (Grows.refl _))).trans (grows_recordAz _)

theorem grows_processReading (s : State) (k : Fin 12) (j : Fin 2) (c : Fin 16) : Grows s (processReading s k j c) := by
  obtain ⟨w, -, -, -, -, h | ⟨e, -, -, h⟩ | ⟨-, -, h⟩⟩ := processReading_cases s k j c
  · rw [h]; exact grows_work s w
  · rw [h]; exact ⟨by constructor <;> rfl, List.prefix_rfl⟩
  · rw [h]; exact ⟨by constructor <;> rfl, List.prefix_append _ _⟩

theorem grows_processFiring (s : State) (k : Fin 12) (j : Fin 2) : Grows s (processFiring s k j) := by
  unfold processFiring
  exact (grows_openFiring s k j).trans (grows_foldl channels _ (fun s c => grows_processReading s k j c) _)

theorem grows_accumulate (s : State) : Grows s (accumulate s) := by
  unfold accumulate
  exact grows_foldl firings _ (fun s kj => grows_processFiring s kj.1 kj.2) s

/-- From a validated packet to the end of the command. -/
theorem grows_processPacket (s : State) : Grows s (processPacket s) := by
  unfold processPacket
  exact ((grows_decodePacket s).trans (grows_accumulate _)).trans (grows_endCommand _)

/-- RECV in every mode, valid packet or not. -/
theorem grows_receive (s : State) (len : BitVec 12) (payload : List Byte) : Grows s (receive s len payload) := by
  unfold receive
  exact grows_ite (grows_raise s (by decide))
    (((grows_work s _).trans (grows_validate _)).trans
      (grows_ite (grows_processPacket _) (Grows.refl _)))

end Sys2Proof.Machine
end

