-- ==== Sys2Proof/Laws/PerInstr.lean ====
section
/-! SUPPORT. The round trip of every instruction: decoding its encoding gives it back (R101, R102, R113, R230, R92). -/

namespace Sys2Proof.Laws

/-- Decoding the encoding of a well-formed instruction gives it back, whatever the two distinct bank headers are. -/
def RoundTrip.Statement (i : Instr) : Prop :=
  ∀ cfg : Config, cfg.bankUpper ≠ cfg.bankLower → i.wellFormed = true → decode cfg (encode cfg i) = .ok i

theorem RoundTrip.cfgwr (a : BitVec 12) (d : BitVec 32) : RoundTrip.Statement (.cfgwr a d) := by
  intro cfg _ _
  simp [encode, decode, decodeCmd]

theorem RoundTrip.init (a : BitVec 12) (d : BitVec 32) : RoundTrip.Statement (.init a d) := by
  intro cfg _ _
  simp [encode, decode, decodeCmd]

theorem RoundTrip.recv (len : BitVec 12) (d : BitVec 32) (payload : List Byte) :
    RoundTrip.Statement (.recv len d payload) := by
  intro cfg _ hw
  have hl : payload.length = len.toNat := by simpa [Instr.wellFormed] using hw
  simp [encode, decode, decodeCmd, hl]

theorem RoundTrip.setch (a : BitVec 12) (d : BitVec 32) : RoundTrip.Statement (.setch a d) := by
  intro cfg _ _
  simp [encode, decode, decodeCmd]

theorem RoundTrip.reserved0 (a : BitVec 12) (d : BitVec 32) : RoundTrip.Statement (.reserved0 a d) := by
  intro cfg _ _
  simp [encode, decode, decodeCmd]

theorem RoundTrip.reserved5 (a : BitVec 12) (d : BitVec 32) : RoundTrip.Statement (.reserved5 a d) := by
  intro cfg _ _
  simp [encode, decode, decodeCmd]

theorem RoundTrip.reserved6 (a : BitVec 12) (d : BitVec 32) : RoundTrip.Statement (.reserved6 a d) := by
  intro cfg _ _
  simp [encode, decode, decodeCmd]

theorem RoundTrip.reserved7 (a : BitVec 12) (d : BitVec 32) : RoundTrip.Statement (.reserved7 a d) := by
  intro cfg _ _
  simp [encode, decode, decodeCmd]

theorem RoundTrip.reserved8 (a : BitVec 12) (d : BitVec 32) : RoundTrip.Statement (.reserved8 a d) := by
  intro cfg _ _
  simp [encode, decode, decodeCmd]

theorem RoundTrip.reserved9 (a : BitVec 12) (d : BitVec 32) : RoundTrip.Statement (.reserved9 a d) := by
  intro cfg _ _
  simp [encode, decode, decodeCmd]

theorem RoundTrip.reservedA (a : BitVec 12) (d : BitVec 32) : RoundTrip.Statement (.reservedA a d) := by
  intro cfg _ _
  simp [encode, decode, decodeCmd]

theorem RoundTrip.reservedB (a : BitVec 12) (d : BitVec 32) : RoundTrip.Statement (.reservedB a d) := by
  intro cfg _ _
  simp [encode, decode, decodeCmd]

theorem RoundTrip.reservedC (a : BitVec 12) (d : BitVec 32) : RoundTrip.Statement (.reservedC a d) := by
  intro cfg _ _
  simp [encode, decode, decodeCmd]

theorem RoundTrip.reservedD (a : BitVec 12) (d : BitVec 32) : RoundTrip.Statement (.reservedD a d) := by
  intro cfg _ _
  simp [encode, decode, decodeCmd]

theorem RoundTrip.reservedE (a : BitVec 12) (d : BitVec 32) : RoundTrip.Statement (.reservedE a d) := by
  intro cfg _ _
  simp [encode, decode, decodeCmd]

theorem RoundTrip.reservedF (a : BitVec 12) (d : BitVec 32) : RoundTrip.Statement (.reservedF a d) := by
  intro cfg _ _
  simp [encode, decode, decodeCmd]

theorem RoundTrip.blkUpper (rot : BitVec 16) (rd : Vector Reading 32) : RoundTrip.Statement (.blkUpper rot rd) := by
  intro cfg _ _
  simp [encode, decode, decodeBlk_blockBytes]

theorem RoundTrip.blkLower (rot : BitVec 16) (rd : Vector Reading 32) : RoundTrip.Statement (.blkLower rot rd) := by
  intro cfg hne _
  simp [encode, decode, decodeBlk_blockBytes, hne.symm]

theorem RoundTrip.pktTrailer (ts : BitVec 32) (factory : BitVec 16) : RoundTrip.Statement (.pktTrailer ts factory) := by
  intro cfg _ _
  have h : encode cfg (.pktTrailer ts factory) = .pkt (leBytes 4 ts.toNat ++ leBytes 2 factory.toNat) := rfl
  rw [h, decode, leBytes_four, leBytes_two]
  simp only [List.cons_append, List.nil_append, decodeTrailer]
  rw [← leBytes_four, ← leBytes_two, ofNat_leNat_leBytes_four, ofNat_leNat_leBytes_two]

theorem RoundTrip.idle : RoundTrip.Statement .idle := fun _ _ _ => rfl

theorem RoundTrip.valSize : RoundTrip.Statement .valSize := fun _ _ _ => rfl

theorem RoundTrip.valHdr : RoundTrip.Statement .valHdr := fun _ _ _ => rfl

theorem RoundTrip.valAlt : RoundTrip.Statement .valAlt := fun _ _ _ => rfl

theorem RoundTrip.tsld : RoundTrip.Statement .tsld := fun _ _ _ => rfl

theorem RoundTrip.rotld : RoundTrip.Statement .rotld := fun _ _ _ => rfl

theorem RoundTrip.delta : RoundTrip.Statement .delta := fun _ _ _ => rfl

theorem RoundTrip.firbase : RoundTrip.Statement .firbase := fun _ _ _ => rfl

theorem RoundTrip.fdelta : RoundTrip.Statement .fdelta := fun _ _ _ => rfl

theorem RoundTrip.chdec : RoundTrip.Statement .chdec := fun _ _ _ => rfl

theorem RoundTrip.interp : RoundTrip.Statement .interp := fun _ _ _ => rfl

theorem RoundTrip.boundary : RoundTrip.Statement .boundary := fun _ _ _ => rfl

theorem RoundTrip.finalize : RoundTrip.Statement .finalize := fun _ _ _ => rfl

theorem RoundTrip.emitBatch : RoundTrip.Statement .emitBatch := fun _ _ _ => rfl

theorem RoundTrip.emitScan : RoundTrip.Statement .emitScan := fun _ _ _ => rfl

theorem RoundTrip.newsweep : RoundTrip.Statement .newsweep := fun _ _ _ => rfl

theorem RoundTrip.fltRange : RoundTrip.Statement .fltRange := fun _ _ _ => rfl

theorem RoundTrip.fltAz : RoundTrip.Statement .fltAz := fun _ _ _ => rfl

theorem RoundTrip.azidx : RoundTrip.Statement .azidx := fun _ _ _ => rfl

theorem RoundTrip.xform : RoundTrip.Statement .xform := fun _ _ _ => rfl

theorem RoundTrip.tstamp : RoundTrip.Statement .tstamp := fun _ _ _ => rfl

theorem RoundTrip.append : RoundTrip.Statement .append := fun _ _ _ => rfl

theorem RoundTrip.diagBadSize : RoundTrip.Statement .diagBadSize := fun _ _ _ => rfl

theorem RoundTrip.diagBadHeader : RoundTrip.Statement .diagBadHeader := fun _ _ _ => rfl

theorem RoundTrip.diagBadAlternation : RoundTrip.Statement .diagBadAlternation := fun _ _ _ => rfl

theorem RoundTrip.diagAzOutOfRange : RoundTrip.Statement .diagAzOutOfRange := fun _ _ _ => rfl

theorem RoundTrip.diagConfigError : RoundTrip.Statement .diagConfigError := fun _ _ _ => rfl

theorem RoundTrip.diagNotRunning : RoundTrip.Statement .diagNotRunning := fun _ _ _ => rfl

theorem RoundTrip.diagBadCmd : RoundTrip.Statement .diagBadCmd := fun _ _ _ => rfl

theorem RoundTrip.diagCfgLocked : RoundTrip.Statement .diagCfgLocked := fun _ _ _ => rfl

theorem RoundTrip.diagSweepOverflow : RoundTrip.Statement .diagSweepOverflow := fun _ _ _ => rfl

end Sys2Proof.Laws
end

