-- ==== Sys2Proof/Machine/Stimulus.lean ====
section
/-! DEFINITION. The stimulus notation of R114 and the pseudo-instructions of R115, as the requests and bytes they stand for. -/

namespace Sys2Proof.Machine

/-- `RAW <hex>`: a command word with no payload. -/
def stimRaw (word : BitVec 48) : Request := .item (.cmd word [])

/-- `CFGWR <addr>, <data>`. -/
def stimCfgwr (a : BitVec 12) (d : BitVec 32) : Request := stimRaw (cmdWord 1 a d)

/-- `INIT`. -/
def stimInit : Request := stimRaw (cmdWord 2 0 0)

/-- `RECV <len>, <bytes>`, LEN the length of the bytes (R105). -/
def stimRecv (payload : List Byte) : Request :=
  .item (.cmd (cmdWord 3 (BitVec.ofNat 12 payload.length) 0) payload)

/-- `SETCH <n>`. -/
def stimSetch (n : BitVec 12) : Request := stimRaw (cmdWord 4 n 0)

/-- `CONFIG minr, maxr, amin, amax, a3min, a3max, res, dmax, emit`: nine configuration writes and INIT. -/
def stimConfig (minr maxr amin amax a3min a3max res dmax emit : BitVec 32) : List Request :=
  [stimCfgwr 0 minr, stimCfgwr 1 maxr, stimCfgwr 2 amin, stimCfgwr 3 amax, stimCfgwr 4 a3min, stimCfgwr 5 a3max,
    stimCfgwr 6 res, stimCfgwr 7 dmax, stimCfgwr 8 emit, stimInit]

/-- `CONFIG_REF`. -/
def stimConfigRef : List Request := stimConfig 300000 130000000 0 0 0 0 10000 130000000 3

/-- One listed reading of a `PKT(...)` expression: its place (k, j, c) and its raw distance and intensity. -/
structure StimReading where
  place : Fin 12 × Fin 2 × Fin 16
  reading : Reading
  deriving DecidableEq, Repr

/-- The reading a `PKT(...)` expression lists for a place; zero where it lists none. -/
def stimReadingAt : List StimReading → Fin 12 × Fin 2 × Fin 16 → Reading
  | [], _ => ⟨0, 0⟩
  | r :: rs, at' => if r.place = at' then r.reading else stimReadingAt rs at'

/-- The 100 bytes of block k of a `PKT(...)` expression. -/
def stimBlock (hdr rot : BitVec 16) (k : Fin 12) (readings : List StimReading) : List Byte :=
  leBytes 2 hdr.toNat ++ leBytes 2 rot.toNat ++
    [(0 : Fin 2), 1].flatMap fun j => channels.flatMap fun c => readingBytes (stimReadingAt readings (k, j, c))

/-- `PKT(ts, fac, rotations, readings, hdr = headers)`. -/
def stimPacketWith (hdrs rots : Vector (BitVec 16) 12) (ts : BitVec 32) (fac : BitVec 16) (readings : List StimReading) :
    List Byte :=
  (blocks.flatMap fun k => stimBlock hdrs[k] rots[k] k readings) ++ trailerBytes ts fac

/-- The default headers of R115: BANK_UPPER for even k, BANK_LOWER for odd k. -/
def stimHeaders (cfg : Config) : Vector (BitVec 16) 12 :=
  #v[cfg.bankUpper, cfg.bankLower, cfg.bankUpper, cfg.bankLower, cfg.bankUpper, cfg.bankLower,
     cfg.bankUpper, cfg.bankLower, cfg.bankUpper, cfg.bankLower, cfg.bankUpper, cfg.bankLower]

/-- `PKT(ts, fac, rotations, readings)`. -/
def stimPacket (cfg : Config) (rots : Vector (BitVec 16) 12) (ts : BitVec 32) (fac : BitVec 16)
    (readings : List StimReading) : List Byte := stimPacketWith (stimHeaders cfg) rots ts fac readings

end Sys2Proof.Machine
end

