-- ==== Sys2Proof/Tests/Slice0.lean ====
section
/-! SUPPORT. The model's own tests: the WellFormed smoke, the decoding of written-out words for every constructor, one or two
small tests per instruction whose expected results are the spec's examples and vectors (95_test_vectors.md), and a witness for
the hypotheses of each obligation that has any. -/

namespace Sys2Proof.Machine.Tests

set_option Elab.async false

open Sys2Proof Sys2Proof.Machine

/-- The next state of a meaning or a step, if there is one. -/
def nextOf (o : Host.Outcome State Fault Refusal) : Option State :=
  match o with
  | .next s => some s
  | .fault _ => none
  | .refused _ => none

/-- The refusal of a step, if there is one. -/
def refusalOf (o : Host.Outcome State Fault Refusal) : Option Refusal :=
  match o with
  | .next _ => none
  | .fault _ => none
  | .refused r => some r

/-- REF after `CONFIG_REF` (R18), in RUN, inside a command with the given transient state. -/
def running (w : Work) : State :=
  { State.reset with
    minRange := 300000, maxRange := 130000000, distRes := 10000, distMax := 130000000, emitCtrl := 3
    mode := .run, work := w }

/-- The sequencer at (phase, k, j, c), nothing else held. -/
def placed (p : Phase) (k : Fin 12) (j : Fin 2) (c : Fin 16) : Work := { Work.idle with phase := p, k := k, j := j, c := c }

/-- One firing whose sixteen channels all hold the given values. -/
def firingOf (fa az : Az) (dist : Len) (int : Byte) : Firing :=
  { fa := fa, az := Vector.replicate 16 az, dist := Vector.replicate 16 dist, int := Vector.replicate 16 int }

/-- The transient state with every firing alike. -/
def withFirings (w : Work) (f : Firing) : Work := { w with fir := Vector.replicate 24 f }

/-- A packet with the given second header bytes (EE the upper bank of REF, DD the lower) and nothing else. -/
def packetOf (banks : List Byte) : List Byte :=
  banks.flatMap (fun b => [0xFF, b] ++ List.replicate 98 0) ++ List.replicate 6 0

/-- The twelve banks strictly alternating, the upper one first. -/
def alternating : List Byte := [0xEE, 0xDD, 0xEE, 0xDD, 0xEE, 0xDD, 0xEE, 0xDD, 0xEE, 0xDD, 0xEE, 0xDD]

/-- A sweep entry of channel ch at azimuth az with intensity i. -/
def entryOf (ch : Ch) (az : Az) (i : Byte) : SweepEntry :=
  { azKey := az, point := { x := 1, y := 2, z := 3, intensity := i, channel := ch, tstamp := 9 } }

/-- Thirty-two readings of raw distance 1000, intensity 100 (R165's example bytes E8 03 64). -/
def readings : Vector Reading 32 := Vector.replicate 32 ⟨1000, 100⟩

/-! ### WellFormed -/

/-- R105: LEN 2 with one byte is ill formed, whatever else the instruction holds. -/
theorem test_wellFormed_refuses_short_payload : (Instr.recv 2 0 [7]).wellFormed = false := by decide

theorem test_wellFormed_refuses_long_payload : (Instr.recv 0 0 [7]).wellFormed = false := by decide

theorem test_wellFormed_accepts_exact_payload : (Instr.recv 2 0 [7, 8]).wellFormed = true := by decide

/-- The decoder and the step refuse the same ill-formed command. -/
theorem test_step_refuses_ill_formed :
    refusalOf (step { State.reset with inbox := [.item (.cmd 0x300200000000 [7])] }) =
      some (.undecodable .payloadLength) := by decide

/-- U5: a phase code that names no phase is refused. -/
theorem test_step_refuses_unused_phase_code :
    refusalOf (step { State.reset with inbox := [.item (.seq 0b10110)] }) = some (.undecodable .phaseCode) := by decide

/-! ### Decoding: the words as the encoding tables give them -/

/-- The REF block of the given bank: header, ROT = 36000 (bytes A0 8C), 32 readings E8 03 64. -/
def blockBytesOf (bank : Byte) : List Byte := [0xFF, bank, 0xA0, 0x8C] ++ (List.replicate 32 [0xE8, 0x03, 0x64]).flatten

theorem test_decode_commands :
    decode Config.ref (.cmd 0x100107BFA480 []) = .ok (.cfgwr 1 130000000) ∧
    decode Config.ref (.cmd 0x2ABC12345678 []) = .ok (.init 0xABC 0x12345678) ∧
    decode Config.ref (.cmd 0x300212345678 [7, 8]) = .ok (.recv 2 0x12345678 [7, 8]) ∧
    decode Config.ref (.cmd 0x401000000001 []) = .ok (.setch 16 1) := by decide

theorem test_decode_reserved :
    decode Config.ref (.cmd 0x000500000007 []) = .ok (.reserved0 5 7) ∧
    decode Config.ref (.cmd 0x5FFF00000000 []) = .ok (.reserved5 0xFFF 0) ∧
    decode Config.ref (.cmd 0x600000000001 []) = .ok (.reserved6 0 1) ∧
    decode Config.ref (.cmd 0x700000000001 []) = .ok (.reserved7 0 1) ∧
    decode Config.ref (.cmd 0x800000000001 []) = .ok (.reserved8 0 1) ∧
    decode Config.ref (.cmd 0x900000000001 []) = .ok (.reserved9 0 1) ∧
    decode Config.ref (.cmd 0xA00000000001 []) = .ok (.reservedA 0 1) ∧
    decode Config.ref (.cmd 0xB00000000001 []) = .ok (.reservedB 0 1) ∧
    decode Config.ref (.cmd 0xC00000000001 []) = .ok (.reservedC 0 1) ∧
    decode Config.ref (.cmd 0xD00000000001 []) = .ok (.reservedD 0 1) ∧
    decode Config.ref (.cmd 0xE00000000001 []) = .ok (.reservedE 0 1) ∧
    decode Config.ref (.cmd 0xF00000000000 []) = .ok (.reservedF 0 0) := by decide

theorem test_decode_blk_upper : decode Config.ref (.blk (blockBytesOf 0xEE)) = .ok (.blkUpper 36000 readings) := by
  decide +kernel

theorem test_decode_blk_lower : decode Config.ref (.blk (blockBytesOf 0xDD)) = .ok (.blkLower 36000 readings) := by
  decide +kernel

/-- R152: a byte-swapped sentinel is none. -/
theorem test_decode_blk_swapped : decode Config.ref (.blk ([0xEE, 0xFF, 0, 0] ++ List.replicate 96 0)) = .error .blockHeader := by
  decide +kernel

/-- R167's example. -/
theorem test_decode_trailer :
    decode Config.ref (.pkt [0x40, 0x42, 0x0F, 0x00, 0x10, 0x37]) = .ok (.pktTrailer 1000000 0x3710) := by decide

theorem test_decode_phases :
    decode Config.ref (.seq 0b00000) = .ok .idle ∧ decode Config.ref (.seq 0b00001) = .ok .valSize ∧
    decode Config.ref (.seq 0b00010) = .ok .valHdr ∧ decode Config.ref (.seq 0b00011) = .ok .valAlt ∧
    decode Config.ref (.seq 0b00100) = .ok .tsld ∧ decode Config.ref (.seq 0b00101) = .ok .rotld ∧
    decode Config.ref (.seq 0b00110) = .ok .delta ∧ decode Config.ref (.seq 0b00111) = .ok .firbase ∧
    decode Config.ref (.seq 0b01000) = .ok .fdelta ∧ decode Config.ref (.seq 0b01001) = .ok .chdec ∧
    decode Config.ref (.seq 0b01010) = .ok .interp ∧ decode Config.ref (.seq 0b01011) = .ok .boundary ∧
    decode Config.ref (.seq 0b01100) = .ok .finalize ∧ decode Config.ref (.seq 0b01101) = .ok .emitBatch ∧
    decode Config.ref (.seq 0b01110) = .ok .emitScan ∧ decode Config.ref (.seq 0b01111) = .ok .newsweep ∧
    decode Config.ref (.seq 0b10000) = .ok .fltRange ∧ decode Config.ref (.seq 0b10001) = .ok .fltAz ∧
    decode Config.ref (.seq 0b10010) = .ok .azidx ∧ decode Config.ref (.seq 0b10011) = .ok .xform ∧
    decode Config.ref (.seq 0b10100) = .ok .tstamp ∧ decode Config.ref (.seq 0b10101) = .ok .append := by decide

theorem test_decode_diagnostics :
    decode Config.ref (.evt 0b00000001) = .ok .diagBadSize ∧ decode Config.ref (.evt 0b00000010) = .ok .diagBadHeader ∧
    decode Config.ref (.evt 0b00000011) = .ok .diagBadAlternation ∧
    decode Config.ref (.evt 0b00000100) = .ok .diagAzOutOfRange ∧
    decode Config.ref (.evt 0b00000101) = .ok .diagConfigError ∧ decode Config.ref (.evt 0b00000110) = .ok .diagNotRunning ∧
    decode Config.ref (.evt 0b00000111) = .ok .diagBadCmd ∧ decode Config.ref (.evt 0b00001000) = .ok .diagCfgLocked ∧
    decode Config.ref (.evt 0b00001001) = .ok .diagSweepOverflow := by decide

/-- A word placed where the step fetches is what the step runs: RAW 0xF00000000000 (CMD-17). -/
theorem test_withFetchWord_is_run :
    (nextOf (step (State.reset.withFetchWord 48 0xF00000000000))).map (·.out) = some [.diag 7 0xF000] := by decide

/-! ### Host commands (95_test_vectors.md 2.1) -/

/-- CMD-3 and CMD-2: low bits kept, the rest dropped. -/
theorem test_cfgwr_keeps_low_bits :
    (nextOf (exec (.cfgwr 0 0xFFFFFFFF) State.reset)).map (fun t => (t.minRange, t.out)) = some (2147483647, []) ∧
    (nextOf (exec (.cfgwr 6 0x00018000) State.reset)).map (fun t => (t.distRes, t.out)) = some (0, []) := by decide

/-- CMD-6 and CMD-14: the address check, and the mode check before it. -/
theorem test_cfgwr_reports :
    (nextOf (exec (.cfgwr 9 1) State.reset)).map (·.out) = some [.diag 7 4105] ∧
    (nextOf (exec (.cfgwr 9 1) (running Work.idle))).map (·.out) = some [.diag 8 1] := by decide

/-- CMD-10 and CMD-11. -/
theorem test_init_checks_configuration :
    (nextOf (exec (.init 0 0) { State.reset with minRange := 5, maxRange := 4 })).map (fun t => (t.mode, t.out)) =
      some (.failed, [.diag 5 3]) ∧
    (nextOf (exec (.init 0 0) { State.reset with minRange := 7, maxRange := 7, distRes := 1 })).map
      (fun t => (t.mode, t.out)) = some (.run, []) := by decide

/-- CMD-12: junk in A and D is ignored, and a second INIT is locked out. -/
theorem test_init_locked :
    (nextOf (exec (.init 0xABC 0x12345678) (running Work.idle))).map (fun t => (t.mode, t.out)) =
      some (.run, [.diag 8 2]) := by decide

/-- CMD-15 and VAL-3. -/
theorem test_recv_drops :
    (nextOf (exec (.recv 1206 0 []) State.reset)).map (·.out) = some [.diag 6 0] ∧
    (nextOf (exec (.recv 0 0 []) (running Work.idle))).map (·.out) = some [.diag 1 0] := by decide +kernel

/-- VAL-9 with no readings: all twelve headers upper. -/
theorem test_recv_reports_alternation :
    (nextOf (exec (.recv 1206 0 (packetOf (List.replicate 12 0xEE))) (running Work.idle))).map (fun t => (t.out, t.lastAz)) =
      some ([.diag 3 1], 1152000) := by decide +kernel

/-- CMD-16. -/
theorem test_setch :
    (nextOf (exec (.setch 3 0) State.reset)).map (fun t => (t.activeCh, t.out)) = some (3, []) ∧
    (nextOf (exec (.setch 16 0) { State.reset with activeCh := 3 })).map (fun t => (t.activeCh, t.out)) = some (3, []) := by
  decide

/-- CMD-17 to CMD-19, and the other reserved opcodes after R135. -/
theorem test_reserved :
    ([.reserved0 5 7, .reserved5 0xFFF 0, .reserved6 0 0, .reserved7 0 0, .reserved8 0 0, .reserved9 0 0, .reservedA 0 0,
      .reservedB 0 0, .reservedC 0 0, .reservedD 0 0, .reservedE 0 0, .reservedF 0 0] : List Instr).map
      (fun i => (nextOf (exec i State.reset)).map (·.out)) =
    ([5, 24575, 0x6000, 0x7000, 0x8000, 0x9000, 0xA000, 0xB000, 0xC000, 0xD000, 0xE000, 0xF000] : List (BitVec 32)).map
      (fun info => some [.diag 7 info]) := by decide

/-- R250. -/
theorem test_idle_waits : nextOf (exec .idle (running Work.idle)) = some (running Work.idle) := by decide

/-! ### Validator -/

/-- VAL-1: 1205 is rejected. -/
theorem test_valSize :
    (nextOf (exec .valSize (running { placed .valSize 0 0 0 with pktLen := 1205 }))).map (·.out) = some [.diag 1 1205] ∧
    (nextOf (exec .valSize (running { placed .valSize 0 0 0 with pktLen := 1206 }))).map (·.out) = some [] := by decide

/-- VAL-5: HDR[5] = 0xFFEE, bytes EE FF. -/
theorem test_valHdr :
    (nextOf (exec .valHdr (running { placed .valHdr 5 0 0 with pkt := [(500, 0xEE), (501, 0xFF)] }))).map (·.out) =
      some [.diag 2 5] ∧
    (nextOf (exec .valHdr (running { placed .valHdr 5 0 0 with pkt := [(500, 0xFF), (501, 0xDD)] }))).map
      (fun t => (t.out, t.work.hdr)) = some ([], 0xDDFF) := by decide

/-- VAL-8, and R153: block 0 has no predecessor. -/
theorem test_valAlt :
    (nextOf (exec .valAlt (running { placed .valAlt 11 0 0 with hdr := 0xEEFF, hdrPrev := 0xEEFF }))).map (·.out) =
      some [.diag 3 11] ∧
    (nextOf (exec .valAlt (running { placed .valAlt 0 0 0 with hdr := 0xEEFF, hdrPrev := 0xEEFF }))).map (·.out) =
      some [] := by decide

/-! ### Decoder -/

/-- R167's example. -/
theorem test_tsld :
    (nextOf (exec .tsld (running { placed .tsld 0 0 0 with
      pkt := [(1200, 0x40), (1201, 0x42), (1202, 0x0F), (1204, 0x10), (1205, 0x37)] }))).map
      (fun t => (t.work.ts, t.work.factory)) = some (1000000, 0x3710) := by decide

/-- R161's example, and 35999 (bytes 9F 8C, R96) unchanged. -/
theorem test_rotld :
    (nextOf (exec .rotld (running { placed .rotld 10 0 0 with pkt := [(1002, 0xA0), (1003, 0x8C)] }))).map
      (fun t => (t.out, t.work.b[10])) = some ([.diag 4 0x8CA0000A], 35999) ∧
    (nextOf (exec .rotld (running { placed .rotld 10 0 0 with pkt := [(1002, 0x9F), (1003, 0x8C)] }))).map
      (fun t => (t.out, t.work.b[10])) = some ([], 35999) := by decide

/-- R162: the wrap 35990 to 20, the step back 1000 to 999, and block 11 borrowing D[10]. -/
theorem test_delta :
    (nextOf (exec .delta (running { placed .delta 0 0 0 with
      b := #v[35990, 20, 0, 0, 0, 0, 0, 0, 0, 0, 0, 0] }))).map (fun t => t.work.d[0]) = some 30 ∧
    (nextOf (exec .delta (running { placed .delta 0 0 0 with
      b := #v[1000, 999, 0, 0, 0, 0, 0, 0, 0, 0, 0, 0] }))).map (fun t => t.work.d[0]) = some 35999 ∧
    (nextOf (exec .delta (running { placed .delta 11 0 0 with
      d := #v[0, 0, 0, 0, 0, 0, 0, 0, 0, 0, 100, 0] }))).map (fun t => t.work.d[11]) = some 100 := by decide

/-- R163: the wrap B = 35995, D = 10, and the odd delta B = 100, D = 41. -/
theorem test_firbase :
    (nextOf (exec .firbase (running { placed .firbase 1 0 0 with
      b := Vector.replicate 12 35995, d := Vector.replicate 12 10 }))).map
      (fun t => (t.work.fir[2].fa, t.work.fir[3].fa)) = some (1151840, 0) ∧
    (nextOf (exec .firbase (running { placed .firbase 11 0 0 with
      b := Vector.replicate 12 100, d := Vector.replicate 12 41 }))).map
      (fun t => (t.work.fir[22].fa, t.work.fir[23].fa)) = some (3200, 3856) := by decide

/-- R164's example, and the wrap of DEC-1 from firing 0 to firing 1. -/
theorem test_fdelta :
    (nextOf (exec .fdelta (running { placed .fdelta 0 1 0 with
      fir := (Work.idle.fir.set 1 (firingOf 640 0 0 0)).set 2 (firingOf 1280 0 0 0) }))).map
      (fun t => t.work.delta[1]) = some 640 ∧
    (nextOf (exec .fdelta (running { placed .fdelta 0 0 0 with
      fir := (Work.idle.fir.set 0 (firingOf 1151680 0 0 0)).set 1 (firingOf 160 0 0 0) }))).map
      (fun t => t.work.delta[0]) = some 480 := by decide

/-- R164: firing 23 takes the advance from firing 22. -/
theorem test_fdelta_last :
    (nextOf (exec .fdelta (running { placed .fdelta 11 1 0 with
      fir := (Work.idle.fir.set 22 (firingOf 131200 0 0 0)).set 23 (firingOf 132800 0 0 0) }))).map
      (fun t => t.work.delta[23]) = some 1600 := by decide

/-- R165's example at (k, j, c) = (1, 1, 2), offset 100 + 4 + 3 × 18 = 158. -/
theorem test_chdec :
    (nextOf (exec .chdec (running { placed .chdec 1 1 2 with pkt := [(158, 0xE8), (159, 0x03), (160, 0x64)] }))).map
      (fun t => (t.work.fir[3].dist[2], t.work.fir[3].int[2])) = some (10000000, 100) := by decide

/-- R166: FA = 1151680, DELTA = 480, c = 11 wraps to 10; c = 10 does not. -/
theorem test_interp :
    (nextOf (exec .interp (running { withFirings (placed .interp 0 0 11) (firingOf 1151680 0 0 0) with
      delta := Vector.replicate 24 480 }))).map (fun t => t.work.fir[0].az[11]) = some 10 ∧
    (nextOf (exec .interp (running { withFirings (placed .interp 0 0 10) (firingOf 1151680 0 0 0) with
      delta := Vector.replicate 24 480 }))).map (fun t => t.work.fir[0].az[10]) = some 1151980 := by decide

/-- R166's second example: the division truncates (DEC-8, c = 2 gives 53). -/
theorem test_interp_truncates :
    (nextOf (exec .interp { running { placed .interp 0 0 2 with delta := Vector.replicate 24 640 } with
      cfg := { Config.ref with tDsr := 2304, tFiring := 55296 } })).map (fun t => t.work.fir[0].az[2]) = some 53 := by decide

/-! ### Filter and transform -/

/-- R181's example. -/
theorem test_fltRange :
    ([299999, 300000, 130000000, 130000001] : List Len).map (fun d =>
      (nextOf (exec .fltRange (running (withFirings (placed .fltRange 0 0 0) (firingOf 0 0 d 0))))).map (·.work.valid)) =
    [some false, some true, some true, some false] := by decide

/-- R182's example: the window [3200, 6400). -/
theorem test_fltAz :
    ([3199, 3200, 6399, 6400] : List Az).map (fun a =>
      (nextOf (exec .fltAz { running { withFirings (placed .fltAz 0 0 0) (firingOf 0 a 0 0) with valid := true } with
        angleDisableMin := 3200, angleDisableMax := 6400 })).map (·.work.valid)) =
    [some true, some false, some false, some true] := by decide

/-- R182: a window with min ≥ max is empty, and VALID is never set. -/
theorem test_fltAz_empty_window :
    (nextOf (exec .fltAz { running { withFirings (placed .fltAz 0 0 0) (firingOf 0 5000 0 0) with valid := true } with
        angle3DisableMin := 6400, angle3DisableMax := 3200 })).map (·.work.valid) = some true ∧
    (nextOf (exec .fltAz (running (placed .fltAz 0 0 0)))).map (·.work.valid) = some false := by decide

/-- R183's corner cases. -/
theorem test_azidx :
    ([15, 16, 96000, 1151983, 1151984] : List Az).map (fun a =>
      (nextOf (exec .azidx (running (withFirings (placed .azidx 0 0 0) (firingOf 0 a 0 0))))).map (·.work.idx)) =
    [some 0, some 1, some 3000, some 35999, some 0] := by decide

/-- XF-1, R184's example. -/
theorem test_xform :
    (nextOf (exec .xform (running (withFirings (placed .xform 0 0 0) (firingOf 0 0 10000000 0))))).map
      (fun t => (t.work.hr.toInt, t.work.x.toInt, t.work.y.toInt, t.work.z.toInt)) =
    some (9659271, 9659271, 0, -2588196) := by decide +kernel

/-- R184's corner cases: c = 14, d = 29 gives Z = −1, d = 1 gives Z = 0. -/
theorem test_xform_ties :
    ([29, 1] : List Len).map (fun d =>
      (nextOf (exec .xform (running (withFirings (placed .xform 0 0 14) (firingOf 0 0 d 0))))).map (·.work.z.toInt)) =
    [some (-1), some 0] := by decide +kernel

/-- R185's examples. -/
theorem test_tstamp :
    (nextOf (exec .tstamp (running { placed .tstamp 0 1 15 with ts := 1000000 }))).map (·.work.t) = some 1000096875 ∧
    (nextOf (exec .tstamp (running { placed .tstamp 11 1 15 with ts := 0xFFFFFFFF }))).map (·.work.t) =
      some 4294968491875 := by decide

/-! ### Accumulator and assembler -/

/-- R201: a decrease of exactly TOL is no boundary, TOL + 1 is. -/
theorem test_boundary :
    ([6400, 6401] : List Az).map (fun last =>
      (nextOf (exec .boundary { running (withFirings (placed .boundary 0 0 0) (firingOf 3200 0 0 0)) with
        lastAz := last })).map (fun t => (t.work.boundary, t.accState))) =
    [some (false, .accumulating), some (true, .boundaryJustCrossed)] := by decide

/-- R202: the first boundary emits nothing; an empty sweep is still emitted later (DEC-7). -/
theorem test_finalize :
    (nextOf (exec .finalize (running (placed .finalize 0 0 0)))).map (fun t => (t.firstSweep, t.out)) = some (false, []) ∧
    (nextOf (exec .finalize { running (placed .finalize 0 0 0) with firstSweep := false, emitCtrl := 1 })).map (·.out) =
      some [.batch 0 false []] := by decide

/-- R203's example: TS = 5003600, g = 18. -/
theorem test_newsweep :
    (nextOf (exec .newsweep { running { placed .newsweep 9 0 0 with ts := 5003600 } with
      sweep := [entryOf 0 0 0], sweepOvf := true, accState := .boundaryJustCrossed })).map
      (fun t => (t.sweep, t.sweepOvf, t.sweepStartTs, t.accState)) = some ([], false, 5004500000, .accumulating) := by decide

/-- R204's example: SWEEP_CAP = 2, the third point is lost and reported. -/
theorem test_append :
    (nextOf (exec .append { running (placed .append 0 0 0) with
      cfg := { Config.ref with sweepCap := some 2 }, sweep := [entryOf 0 0 0, entryOf 0 0 0] })).map
      (fun t => (t.sweep.length, t.sweepOvf, t.out)) = some (2, true, [.diag 9 0]) := by decide

/-- R186: the entry stored is the reading in hand. -/
theorem test_append_stores :
    (nextOf (exec .append (running { withFirings (placed .append 0 0 11) (firingOf 0 15200 0 16) with
      x := 1, y := 2, z := 3, t := 9 }))).map (·.sweep) = some [entryOf 11 15200 16] := by decide

/-- R221: insertion order, the overflow flag carried. -/
theorem test_emitBatch :
    (nextOf (exec .emitBatch { running (placed .emitBatch 0 0 0) with
      sweep := [entryOf 3 9 1, entryOf 1 5 2], sweepStartTs := 7, sweepOvf := true })).map (·.out) =
    some [.batch 7 true [(entryOf 3 9 1).point, (entryOf 1 5 2).point]] := by decide

/-- R222: P3b's order, AZKEY 2400, 15200, 284000, and equal keys in insertion order. -/
theorem test_emitScan :
    (nextOf (exec .emitScan { running (placed .emitScan 0 0 0) with
      emitCtrl := 6, activeCh := 11
      sweep := [entryOf 11 15200 1, entryOf 0 6400 2, entryOf 11 284000 3, entryOf 11 2400 4, entryOf 11 15200 5] })).map
      (·.out) =
    some [.scan 11 [(entryOf 11 2400 4).point, (entryOf 11 15200 1).point, (entryOf 11 15200 5).point,
      (entryOf 11 284000 3).point]] := by decide

/-! ### The rows of the packet and of the diagnostics -/

/-- R161, R165: block 10, either bank, ROT = 36000. -/
theorem test_blkUpper :
    (nextOf (exec (.blkUpper 36000 readings) (running (placed .valHdr 10 0 0)))).map
      (fun t => (t.out, t.work.b[10], t.work.fir[21].dist[15])) =
    some ([.diag 4 0x8CA0000A], 35999, 10000000) := by decide +kernel

theorem test_blkLower :
    (nextOf (exec (.blkLower 20 readings) (running (placed .valHdr 10 0 0)))).map
      (fun t => (t.out, t.work.b[10], t.work.fir[20].int[0])) = some ([], 20, 100) := by decide +kernel

/-- R167's example. -/
theorem test_pktTrailer :
    (nextOf (exec (.pktTrailer 1000000 0x3710) (running (placed .valSize 0 0 0)))).map
      (fun t => (t.work.ts, t.work.factory, t.work.pkt)) =
    some (1000000, 0x3710, [(1200, 0x40), (1201, 0x42), (1202, 0x0F), (1204, 0x10), (1205, 0x37)]) := by decide

/-- R230: code, info and class of the nine causes; after the cause, MODE and whether a command is still in progress. -/
theorem test_diagnostics :
    ([.diagBadSize, .diagBadHeader, .diagBadAlternation, .diagAzOutOfRange, .diagConfigError, .diagNotRunning, .diagBadCmd,
      .diagCfgLocked, .diagSweepOverflow] : List Instr).map (fun i =>
        (nextOf (exec i { running { placed .rotld 10 0 0 with
          cmd := 0x1FFF00000001, pktLen := 1205, pkt := [(1002, 0xA0), (1003, 0x8C)] } with distRes := 0 })).map
        (fun t => (t.out, t.mode, t.busy))) =
    [some ([.diag 1 1205], .run, false), some ([.diag 2 10], .run, false), some ([.diag 3 10], .run, false),
     some ([.diag 4 0x8CA0000A], .run, true), some ([.diag 5 2], .failed, false), some ([.diag 6 1], .run, false),
     some ([.diag 7 0x1FFF], .run, false), some ([.diag 8 1], .run, false), some ([.diag 9 0], .run, true)] := by decide

/-! ### Numerics -/

/-- R14's examples. -/
theorem test_rnd16 : ([32767, 32768, -32768, -32769, 360448, -360448] : List Int).map rnd16 = [0, 1, 0, -1, 6, -5] := by
  decide

/-- R47's printed entries. -/
theorem test_reference_rom :
    ([0, 1, 2, 100, 1500, 3000, 4500, 12000, 22501, 35999] : List Nat).map (fun i => (refSin i, refCos i)) =
    [(0, 65536), (11, 65536), (23, 65536), (1144, 65526), (16962, 63303), (32768, 56756), (46341, 46341), (56756, -32768),
     (-46349, -46333), (-11, 65536)] := by decide +kernel

/-! ### Stimulus -/

/-- The command words 95_test_vectors.md section 0 prints for `CONFIG_REF`. -/
theorem test_stimulus_config_ref : stimConfigRef =
    [stimRaw 0x1000000493E0, stimRaw 0x100107BFA480, stimRaw 0x100200000000, stimRaw 0x100300000000, stimRaw 0x100400000000,
     stimRaw 0x100500000000, stimRaw 0x100600002710, stimRaw 0x100707BFA480, stimRaw 0x100800000003,
     stimRaw 0x200000000000] := by decide

/-- Program P3, packet 1: its non-zero bytes 813:90 814:01 815:0D of reading (8,0,3), raw 400, intensity 13. -/
theorem test_stimulus_packet_bytes :
    (List.range 3).map (fun i => (stimBlock 0xEEFF 16200 8 [⟨(8, 0, 3), ⟨400, 13⟩⟩])[13 + i]?) =
      [some 0x90, some 0x01, some 0x0D] := by decide +kernel

/-! ### Witnesses: states and operands that meet the hypotheses of an obligation, at the boundary values of its clauses -/

theorem witness_DecodeInvertsEncode :
    Config.ref.bankUpper ≠ Config.ref.bankLower ∧ (Instr.recv 2 9 [7, 8]).wellFormed = true ∧
    (Instr.recv 4095 0 (List.replicate 4095 1)).wellFormed = true ∧ (Instr.blkUpper 36000 readings).wellFormed = true := by
  decide +kernel

theorem witness_EncodeInvertsDecode :
    decode Config.ref (.cmd 0x300200000000 [7, 8]) = .ok (.recv 2 0 [7, 8]) ∧
    decode Config.ref (.evt 9) = .ok .diagSweepOverflow := by decide

theorem witness_EveryCommandWordDecodes :
    ([7, 8] : List Byte).length = (if (0x300212345678 : BitVec 48).extractLsb' 44 4 = 3
      then ((0x300212345678 : BitVec 48).extractLsb' 32 12).toNat else 0) ∧
    ([] : List Byte).length = (if (0x0FFF00000000 : BitVec 48).extractLsb' 44 4 = 3
      then ((0x0FFF00000000 : BitVec 48).extractLsb' 32 12).toNat else 0) := by decide

theorem witness_PendingRequestIsServed :
    paramsOk State.reset.cfg = true ∧ State.reset.work.phase = .idle ∧
    ({ State.reset with inbox := [.item (.cmd 0x400300000000 [])] } : State).inbox = .item (.cmd 0x400300000000 []) :: [] ∧
    decode State.reset.cfg (.cmd 0x400300000000 []) = .ok (.setch 3 0) ∧
    ({ State.reset with inbox := [.reset] } : State).inbox = .reset :: [] := by decide

theorem witness_SequencerPhaseIsRun :
    paramsOk (running (placed .append 11 1 15)).cfg = true ∧ (running (placed .append 11 1 15)).work.phase ≠ .idle ∧
    ∃ t, exec (running (placed .append 11 1 15)).work.phase.instr (running (placed .append 11 1 15)) = .next t :=
  ⟨by decide, by decide, _, rfl⟩

theorem witness_IdleKeepsAllState :
    paramsOk (running Work.idle).cfg = true ∧ (running Work.idle).work.phase = .idle ∧ (running Work.idle).inbox = [] := by
  decide

/-- Each disjunct alone breaks the parameter set. -/
theorem witness_BadParametersRefused :
    ({ Config.ref with bankLower := 0xEEFF } : Config).bankUpper = ({ Config.ref with bankLower := 0xEEFF } : Config).bankLower ∧
    ({ Config.ref with tFiring := 0 } : Config).tFiring = 0 ∧
    ({ Config.ref with sweepCap := some 0 } : Config).sweepCap = some 0 ∧
    (∃ c : Fin 16, (({ Config.ref with altRom := Vector.replicate 16 (0, -65537) } : Config).altRom[c].2).natAbs > 65536) ∧
    (∃ l, ({ Config.ref with azRom := .table [] } : Config).azRom = .table l ∧ l.length ≠ 36000) :=
  ⟨rfl, rfl, rfl, ⟨0, by decide⟩, ⟨[], rfl, by decide⟩⟩

theorem witness_CfgwrWritesOrReports :
    (running Work.idle).mode ≠ .unconfigured ∧ State.reset.mode = .unconfigured ∧ 8 < (9 : BitVec 12).toNat ∧
    8 < (4095 : BitVec 12).toNat ∧ (0 : BitVec 12).toNat = 0 ∧ (8 : BitVec 12).toNat = 8 := by decide

/-- Equal bounds start the block; a range one too low, or a zero resolution, fails it. -/
theorem witness_InitStartsOrFails :
    (running Work.idle).mode ≠ .unconfigured ∧ State.reset.mode = .unconfigured ∧
    (7 : Len).toNat ≤ (7 : Len).toNat ∧ (1 : BitVec 15) ≠ 0 ∧ (6 : Len).toNat < (7 : Len).toNat ∧
    State.reset.distRes = 0 := by decide

theorem witness_SetchSelectsChannel :
    (0 : BitVec 12).toNat ≤ 15 ∧ (15 : BitVec 12).toNat ≤ 15 ∧ 15 < (16 : BitVec 12).toNat ∧ 15 < (4095 : BitVec 12).toNat := by
  decide

theorem witness_RecvDropsWithoutReading :
    State.reset.mode = .unconfigured ∧ ({ State.reset with mode := .failed } : State).mode = .failed ∧
    (running Work.idle).mode = .run ∧ (1205 : BitVec 12).toNat ≠ 1206 ∧ (1207 : BitVec 12).toNat ≠ 1206 ∧
    (0 : BitVec 12).toNat ≠ 1206 := by decide

/-- The first defect at block 0 (no sentinel) and at block 11 (no sentinel; the bank of block 10 again). -/
theorem witness_MalformedPacketDiscarded :
    (running Work.idle).mode = .run ∧ (packetOf (0xFF :: alternating.tail)).length = 1206 ∧
    ¬ headerKnown Config.ref (packetOf (0xFF :: alternating.tail)) 0 ∧
    (packetOf (alternating.take 11 ++ [0xDE])).length = 1206 ∧
    (∀ i < 11, blockPasses Config.ref (packetOf (alternating.take 11 ++ [0xDE])) i) ∧
    ¬ headerKnown Config.ref (packetOf (alternating.take 11 ++ [0xDE])) 11 ∧
    (packetOf (alternating.take 11 ++ [0xEE])).length = 1206 ∧
    (∀ i < 11, blockPasses Config.ref (packetOf (alternating.take 11 ++ [0xEE])) i) ∧
    headerKnown Config.ref (packetOf (alternating.take 11 ++ [0xEE])) 11 ∧
    ¬ blockPasses Config.ref (packetOf (alternating.take 11 ++ [0xEE])) 11 := by
  unfold blockPasses headerKnown headerOf byteOf; decide +kernel

/-- A valid packet, and a state in RUN with an accepted parameter set that has not seen one. -/
theorem witness_ValidPacketProcessed :
    (running Work.idle).mode = .run ∧ (running Work.idle).accState = .accumulating ∧
    paramsOk (running Work.idle).cfg = true ∧ packetValid (running Work.idle).cfg (packetOf alternating) := by
  unfold packetValid blockPasses headerKnown headerOf byteOf; decide +kernel

theorem witness_CommandsShareNoTransientState :
    encode Config.ref (.setch 3 0) = .cmd 0x400300000000 [] ∧
    encode Config.ref (.recv 2 0 [7, 8]) = .cmd 0x300200000000 [7, 8] := by decide

theorem witness_ValSizeChecksLength :
    (running { placed .valSize 0 0 0 with pktLen := 1206 }).work.pktLen.toNat = 1206 ∧
    (running { placed .valSize 0 0 0 with pktLen := 1205 }).work.pktLen.toNat ≠ 1206 := by decide

/-- The upper sentinel in block 0, and its bytes swapped in block 11. -/
theorem witness_ValHdrChecksSentinel :
    (0xEEFF : BitVec 16).toNat = (Memory.read [(0, 0xFF), (1, 0xEE)] (100 * 0)).toNat +
      256 * (Memory.read [(0, 0xFF), (1, 0xEE)] (100 * 0 + 1)).toNat ∧
    (0xEEFF : BitVec 16) = Config.ref.bankUpper ∧
    (0xFFEE : BitVec 16).toNat = (Memory.read [(1100, 0xEE), (1101, 0xFF)] (100 * 11)).toNat +
      256 * (Memory.read [(1100, 0xEE), (1101, 0xFF)] (100 * 11 + 1)).toNat ∧
    (0xFFEE : BitVec 16) ≠ Config.ref.bankUpper ∧ (0xFFEE : BitVec 16) ≠ Config.ref.bankLower := by decide

theorem witness_ValAltChecksAlternation :
    (placed .valAlt 0 0 0).k.val = 0 ∧ 0 < (placed .valAlt 1 0 0).k.val ∧
    ({ placed .valAlt 1 0 0 with hdr := 0xEEFF } : Work).hdr ≠ ({ placed .valAlt 1 0 0 with hdr := 0xEEFF } : Work).hdrPrev ∧
    (placed .valAlt 11 0 0).hdr = (placed .valAlt 11 0 0).hdrPrev := by decide

theorem witness_PacketLoadStoresPayload : (packetOf alternating).length = 1206 := by decide +kernel

/-- ROT[10] = 36000, and the zero of an empty buffer at block 0. -/
theorem witness_RotldClampsAndReports :
    36000 = (Memory.read [(1002, 0xA0), (1003, 0x8C)] (100 * 10 + 2)).toNat +
      256 * (Memory.read [(1002, 0xA0), (1003, 0x8C)] (100 * 10 + 3)).toNat ∧
    0 = (Memory.read [] (100 * 0 + 2)).toNat + 256 * (Memory.read [] (100 * 0 + 3)).toNat := by decide

theorem witness_DeltaIsAdvanceToNextBlock :
    (placed .delta 10 0 0).k.val + 1 < 12 ∧ (placed .delta 11 0 0).k.val = 11 ∧ (10 : Fin 12) ≠ (placed .delta 11 0 0).k := by
  decide

theorem witness_FirbaseGivesBaseAzimuths :
    ({ placed .firbase 11 0 0 with b := Vector.replicate 12 35999 } : Work).b[(11 : Fin 12)].toNat ≤ 35999 ∧
    (0 : Fin 24) ≠ firingIndex 11 0 ∧ (0 : Fin 24) ≠ firingIndex 11 1 := by decide

theorem witness_FdeltaIsAdvanceToNextFiring :
    (placed .fdelta 11 0 0).g.val + 1 < 24 ∧ (placed .fdelta 11 1 0).g.val = 23 ∧ (22 : Fin 24) ≠ (placed .fdelta 11 1 0).g := by
  decide

theorem witness_ChdecReadsDistanceAndIntensity :
    1197 = readingOffset (placed .chdec 11 1 15).k.val (placed .chdec 11 1 15).j.val (placed .chdec 11 1 15).c.val ∧
    ((23, 14) : Fin 24 × Fin 16) ≠ ((placed .chdec 11 1 15).g, (placed .chdec 11 1 15).c) := by decide

theorem witness_InterpAdvancesAzimuth :
    ((0, 0) : Fin 24 × Fin 16) ≠ ((placed .interp 11 1 15).g, (placed .interp 11 1 15).c) := by decide

theorem witness_DecodeClosedForm : (packetOf alternating).length = 1206 := by decide +kernel

/-- Both windows at both ends: 3200 and 6399 inside the first, 6400 outside both. -/
theorem witness_AzimuthFilterClearsInsideWindows :
    3200 = ((withFirings (placed .fltAz 0 0 0) (firingOf 0 3200 0 0)).fir[(0 : Fin 24)].az[(0 : Fin 16)]).toNat ∧
    ((3200 : Az).toNat ≤ 3200 ∧ 3200 < (6400 : Az).toNat) ∧ ((0 : Az).toNat ≤ 6399 ∧ 6399 < (6400 : Az).toNat) ∧
    ¬ ((3200 : Az).toNat ≤ 6400 ∧ 6400 < (6400 : Az).toNat) ∧ ¬ ((0 : Az).toNat ≤ 6400 ∧ 6400 < (0 : Az).toNat) := by decide

theorem witness_XformIsExact : paramsOk (running (placed .xform 11 1 15)).cfg = true := by decide

theorem witness_TstampNeverWraps : paramsOk (running (placed .tstamp 11 1 15)).cfg = true := by decide

/-- REF meets the bound, T_DSR = 5000 (DEC-9) does not; the last channel of a firing and the first of the next. -/
theorem witness_OrderNeedsChannelsWithinFiring :
    15 * Config.ref.tDsr ≤ Config.ref.tFiring ∧ ¬ 15 * ({ Config.ref with tDsr := 5000 } : Config).tDsr ≤ Config.ref.tFiring ∧
    (0 : Fin 16) ≤ 15 ∧ (0 : Fin 24) < 23 ∨ ((0 : Fin 24) = 0 ∧ (15 : Fin 16) ≤ 15) := by decide

theorem witness_ReferenceRomSymmetries : 0 < 36000 ∧ 35999 < 36000 := by decide

/-- LAST_AZ after reset and a firing at 0, and a firing within TOL of a full turn. -/
theorem witness_BoundaryNeedsMoreThanTolerance :
    (running (placed .boundary 0 0 0)).work.fir[(0 : Fin 24)].fa.toNat + Config.ref.tol < State.reset.lastAz.toNat ∧
    State.reset.lastAz.toNat ≤
      (withFirings (placed .boundary 0 0 0) (firingOf 1148800 0 0 0)).fir[(0 : Fin 24)].fa.toNat + Config.ref.tol := by decide

theorem witness_FinalizeSuppressesOnlyOnce :
    (running (placed .finalize 0 0 0)).firstSweep = true ∧
    ({ running (placed .finalize 0 0 0) with firstSweep := false } : State).firstSweep = false := by decide

theorem witness_NewsweepStartsEmpty : paramsOk (running (placed .newsweep 11 1 0)).cfg = true := by decide

/-- A capacity of one: room with nothing stored, none with one stored, reported or not. -/
theorem witness_AppendStoresOrLoses :
    (true = match (some 1 : Option Nat) with
      | none => true
      | some cap => decide (([] : List SweepEntry).length < cap)) ∧
    (false = match (some 1 : Option Nat) with
      | none => true
      | some cap => decide ([entryOf 0 0 0].length < cap)) ∧
    State.reset.sweepOvf = false ∧ ({ State.reset with sweepOvf := true } : State).sweepOvf = true := by decide

theorem witness_FiringOpensNewSweepAtBoundary :
    State.reset.accState = .accumulating ∧
    State.reset.lastAz.toNat ≤
      (withFirings Work.idle (firingOf 1148800 0 0 0)).fir[firingIndex 11 1].fa.toNat + Config.ref.tol ∧
    (withFirings Work.idle (firingOf 1148799 0 0 0)).fir[firingIndex 0 0].fa.toNat + Config.ref.tol <
      State.reset.lastAz.toNat := by decide

/-- A reading at MAX_RANGE, at the end of the first window and before the second, survives, one just below MIN_RANGE and one at
the start of a window do not; a capacity of one has room with nothing stored and none with one entry, reported or not. -/
theorem witness_DroppedReadingLeavesNoTrace :
    paramsOk ({ Config.ref with sweepCap := some 1 } : Config) = true ∧
    ((300000 : Len).toNat ≤ (130000000 : Len).toNat ∧ (130000000 : Len).toNat ≤ (130000000 : Len).toNat ∧
      ¬ ((3200 : Az).toNat ≤ 6400 ∧ 6400 < (6400 : Az).toNat) ∧ ¬ ((6401 : Az).toNat ≤ 6400 ∧ 6400 < (9600 : Az).toNat)) ∧
    ¬ ((300000 : Len).toNat ≤ (299999 : Len).toNat) ∧ ((3200 : Az).toNat ≤ 3200 ∧ 3200 < (6400 : Az).toNat) ∧
    (∀ cap, some 1 = some cap → ([] : List SweepEntry).length < cap) ∧
    (({ Config.ref with sweepCap := some 1 } : Config).sweepCap = some 1 ∧ 1 ≤ [entryOf 0 0 0].length) ∧
    State.reset.sweepOvf = false ∧ ({ State.reset with sweepOvf := true } : State).sweepOvf = true := by
  refine ⟨by decide, by decide, by decide, by decide, ?_, by decide, by decide, by decide⟩
  intro cap h; cases h; decide

theorem witness_ScanEmitsSelectedOrAllLines :
    ({ State.reset with emitCtrl := 6 } : State).emitCtrl.getLsbD 2 = true ∧
    ({ State.reset with emitCtrl := 3 } : State).emitCtrl.getLsbD 2 = false := by decide

theorem witness_BlocksAreCheckedAndRead :
    Memory.wf (running (placed .valHdr 11 0 0)).work.pkt = true ∧
    (0xEEFF : BitVec 16) = (running (placed .valHdr 0 0 0)).cfg.bankUpper ∧ (placed .valHdr 0 0 0).k = 0 ∧
    (0xDDFF : BitVec 16) = (running (placed .valHdr 11 0 0)).cfg.bankLower ∧ (placed .valHdr 11 0 0).hdrPrev ≠ 0xDDFF ∧
    readings[16 * (1 : Fin 2).val + (15 : Fin 16).val]? = some ⟨1000, 100⟩ := by decide

theorem witness_RepeatedBankReported :
    Memory.wf (running { placed .valHdr 1 0 0 with hdrPrev := 0xEEFF }).work.pkt = true ∧
    (placed .valHdr 1 0 0).k ≠ 0 ∧ (0xEEFF : BitVec 16) = Config.ref.bankUpper ∧ (0xDDFF : BitVec 16) = Config.ref.bankLower := by
  decide

theorem witness_TrailerIsLoaded : Memory.wf (running { placed .valSize 0 0 0 with pkt := [(0, 1), (1205, 2)] }).work.pkt = true := by
  decide

/-- A sound state in RUN, inside a command, with a point in its sweep. -/
theorem sound_running (w : Work) (hp : Memory.wf w.pkt = true) (hb : w.b = Work.idle.b) (hf : w.fir = Work.idle.fir) :
    ({ running w with sweep := [entryOf 0 1151999 0] } : State).Sound where
  pkt := hp
  sweepFits := by intro cap h; cases h; exact (by decide : 1 ≤ 65536)
  sweepAz := by intro e he; rw [List.mem_singleton.1 he]; decide
  lastAz := (by decide : (1152000 : Az).toNat ≤ 1152000)
  rotations := by intro k; show w.b[k].toNat ≤ rotMax; rw [hb]; simp [Work.idle]
  bases := by intro g; show w.fir[g].fa.toNat < fullTurn; rw [hf]; simp [Work.idle]
  corrected := by intro g c; show (w.fir[g].az[c]).toNat < fullTurn; rw [hf]; simp [Work.idle]
  running := fun _ => (by decide : (300000 : Len) ≤ 130000000 ∧ 1 ≤ (10000 : BitVec 15).toNat)

theorem witness_EveryStepKeepsSound :
    ({ running (placed .emitBatch 0 0 0) with sweep := [entryOf 0 1151999 0] } : State).Sound ∧
    ∃ t, step { running (placed .emitBatch 0 0 0) with sweep := [entryOf 0 1151999 0] } = .next t :=
  ⟨sound_running _ rfl rfl rfl, _, rfl⟩

/-- At rest in RUN, a packet already processed, a command pending. -/
theorem witness_HostStepKeepsResting :
    ({ running Work.idle with lastAz := 5, sweep := [entryOf 0 1151999 0], inbox := [.item (.cmd 0x400300000000 [])] } :
      State).Resting ∧
    ({ running Work.idle with lastAz := 5, sweep := [entryOf 0 1151999 0], inbox := [.item (.cmd 0x400300000000 [])] } :
      State).hostNext = true ∧
    ∃ t, step { running Work.idle with
      lastAz := 5, sweep := [entryOf 0 1151999 0], inbox := [.item (.cmd 0x400300000000 [])] } = .next t := by
  have h := sound_running Work.idle rfl rfl rfl
  exact ⟨{ sound := { h with lastAz := by decide }, idle := rfl, accumulating := rfl,
           notRunning := fun hm => absurd rfl hm, fresh := fun hl => absurd hl (by decide) }, rfl, _, rfl⟩

theorem witness_EveryHostRunRests :
    ([.item (.cmd 0x400300000000 []), .reset] : List Request).all Request.fromHost = true ∧
    ∃ t, Sys2Proof.core.run 2 ({ State.reset with
      cfg := Config.ref, inbox := [.item (.cmd 0x400300000000 []), .reset] } : State) = .next t := ⟨rfl, _, rfl⟩

theorem witness_EventsAreNeverWithdrawn :
    (running (placed .emitBatch 0 0 0)).work.phase ≠ .idle ∧
    (∃ t, step (running (placed .emitBatch 0 0 0)) = .next t) ∧
    ({ State.reset with inbox := [.item (.cmd 0xF00000000000 [])] } : State).resetNext = false ∧
    ∃ t, step { State.reset with inbox := [.item (.cmd 0xF00000000000 [])] } = .next t :=
  ⟨by decide, ⟨_, rfl⟩, rfl, _, rfl⟩

/-- In RUN, a configuration write pending; and in FAILED, inside a command. -/
theorem witness_ConfigurationFrozenByInit :
    (running Work.idle).mode ≠ .unconfigured ∧
    ({ running Work.idle with inbox := [.item (.cmd 0x100000000001 [])] } : State).hostNext = true ∧
    ({ running Work.idle with inbox := [.item (.cmd 0x100000000001 [])] } : State).resetNext = false ∧
    (∃ t, step { running Work.idle with inbox := [.item (.cmd 0x100000000001 [])] } = .next t) ∧
    (running (placed .tsld 0 0 0)).work.phase ≠ .idle ∧
    ∃ t, step { running (placed .tsld 0 0 0) with mode := .failed } = .next t :=
  ⟨by decide, rfl, by decide, ⟨_, rfl⟩, by decide, _, rfl⟩

theorem witness_ParametersNeverChange : ∃ t, step { State.reset with inbox := [.reset] } = .next t := ⟨_, rfl⟩

theorem witness_DistMaxChangesNoOutput : ∃ t, step { State.reset with inbox := [.item (.cmd 0x100700000005 [])] } = .next t :=
  ⟨_, rfl⟩

/-- Each check passing and failing, FINALIZE suppressed, with the batch alone and with the lines, and a row with no condition. -/
theorem witness_PhaseNamesRunningOperation :
    Phase.append ≠ .idle ∧ Phase.valSize ≠ .idle ∧ Phase.valHdr ≠ .idle ∧ Phase.valAlt ≠ .idle ∧ Phase.finalize ≠ .idle ∧
    (running { placed .valSize 0 0 0 with pktLen := 1206 }).work.pktLen.toNat = 1206 ∧
    (running { placed .valSize 0 0 0 with pktLen := 1207 }).work.pktLen.toNat ≠ 1206 ∧
    (running { placed .valHdr 0 0 0 with pkt := [(0, 0xFF), (1, 0xEE)] }).work.header 0 = Config.ref.bankUpper ∧
    (running (placed .valHdr 11 0 0)).work.header 11 ≠ Config.ref.bankUpper ∧
    (running (placed .valHdr 11 0 0)).work.header 11 ≠ Config.ref.bankLower ∧
    ¬ (0 < (placed .valAlt 0 0 0).k.val) ∧
    (0 < (placed .valAlt 1 0 0).k.val ∧ (placed .valAlt 1 0 0).hdr = (placed .valAlt 1 0 0).hdrPrev) ∧
    State.reset.firstSweep = true ∧
    (({ State.reset with emitCtrl := 1 } : State).scanEn = false ∧ ({ State.reset with emitCtrl := 1 } : State).cloudEn = true) ∧
    ({ State.reset with emitCtrl := 2 } : State).scanEn = true := by decide

theorem witness_SequencerPerformsRecv : paramsOk (running Work.idle).cfg = true ∧ (running Work.idle).mode = .run := by decide

end Sys2Proof.Machine.Tests
end

section
/-! PROOFS for `00_scope.md`: what `step` does with the first pending request (R5, R130, R136), and when it refuses the
parameter set (R8). -/

namespace Sys2Proof.Machine

/-! ### What is fetched in IDLE -/

theorem fetch_of_decoded_item {s : State} {item : Item} {i : Instr} {rest : List Request} (hidle : s.work.phase = .idle)
    (hinbox : s.inbox = .item item :: rest) (hdecode : decode s.cfg item = .ok i) :
    s.fetch = .run i { s with inbox := rest } := by
  simp [State.fetch, not_busy_iff.2 hidle, hinbox, hdecode]

theorem fetch_of_reset {s : State} {rest : List Request} (hidle : s.work.phase = .idle)
    (hinbox : s.inbox = .reset :: rest) : s.fetch = .reset { s with inbox := rest } := by
  simp [State.fetch, not_busy_iff.2 hidle, hinbox]

/-! ### What `step` does with what is fetched -/

theorem step_of_fetch_run {s t : State} {i : Instr} (hparams : paramsOk s.cfg = true) (hfetch : s.fetch = .run i t) :
    step s = exec i t := by
  rw [step, if_pos hparams, hfetch]

theorem step_of_fetch_reset {s t : State} (hparams : paramsOk s.cfg = true) (hfetch : s.fetch = .reset t) :
    step s = .next t.resetPin := by
  rw [step, if_pos hparams, hfetch]

theorem step_of_not_paramsOk {s : State} (hparams : ¬ paramsOk s.cfg = true) : step s = .refused .badParameters :=
  if_neg hparams

/-! ### The constraint on a given azimuth table -/

/-- U3 and R8 for a table, out of the check. -/
theorem azRom_ok_table_iff {l : List (Int × Int)} : AzRom.ok (.table l) = true ↔
    l.length = 36000 ∧ ∀ e ∈ l, e.1.natAbs ≤ trigOne ∧ e.2.natAbs ≤ trigOne := by
  simp only [AzRom.ok, Bool.and_eq_true, beq_iff_eq, List.all_eq_true, romPairOk_iff]

/-! ### The obligations -/

/-- Settles O5: in IDLE the first request decides what is fetched, and `step` runs what is fetched. -/
theorem pendingRequestIsServed : Obligations.PendingRequestIsServed := by
  intro s rest hparams hidle
  constructor
  · intro item i hinbox hdecode
    exact step_of_fetch_run hparams (fetch_of_decoded_item hidle hinbox hdecode)
  · intro hinbox
    exact step_of_fetch_reset hparams (fetch_of_reset hidle hinbox)

/-- Settles O9: each defect contradicts the constraint that an accepted parameter set meets. -/
theorem badParametersRefused : Obligations.BadParametersRefused := by
  intro s hbad
  refine step_of_not_paramsOk fun hok => ?_
  obtain ⟨hbanks, -, ⟨hfiring, -⟩, -, -, hcap, -, hazRom⟩ := paramsOk_iff.1 hok
  rcases hbad with hsame | hzero | hempty | ⟨c, halt⟩ | ⟨l, htable, hdefect⟩
  · exact hbanks hsame
  · omega
  · exact absurd (hcap 0 hempty) (by decide)
  · obtain ⟨hsin, hcos⟩ := altRom_natAbs_le hok c
    simp only [altSin, altCos, trigOne] at hsin hcos
    omega
  · rw [htable, azRom_ok_table_iff] at hazRom
    obtain ⟨hlength, hentries⟩ := hazRom
    rcases hdefect with hshort | ⟨e, he, hlarge⟩
    · exact hshort hlength
    · have hbound := hentries e he
      simp only [trigOne] at hbound
      omega

end Sys2Proof.Machine
end

section
/-! PROOFS for `10_state.md`, first layer: what a row of the opcode table does as a function of the state, and the four things a
step can be (R5, R43, R263). Every later section argues by cases over these. -/

namespace Sys2Proof.Machine

/-! ### Rows -/

/-- R113: the operation of a phase at the counters the state holds. -/
def phaseOp : Phase → State → State
  | .idle, s => s
  | .valSize, s => valSize (s.enter .valSize)
  | .valHdr, s => valHdr (s.enter .valHdr)
  | .valAlt, s => valAlt (s.enter .valAlt)
  | .tsld, s => tsld (s.enter .tsld)
  | .rotld, s => rotld (s.enter .rotld)
  | .delta, s => delta (s.enter .delta)
  | .firbase, s => firbase (s.enter .firbase)
  | .fdelta, s => fdelta (s.enter .fdelta)
  | .chdec, s => chdec (s.enter .chdec)
  | .interp, s => interp (s.enter .interp)
  | .boundary, s => boundary (s.enter .boundary)
  | .finalize, s => finalize (s.enter .finalize)
  | .emitBatch, s => emitBatch (s.enter .emitBatch)
  | .emitScan, s => emitScan (s.enter .emitScan)
  | .newsweep, s => newsweep (s.enter .newsweep)
  | .fltRange, s => fltRange (s.enter .fltRange)
  | .fltAz, s => fltAz (s.enter .fltAz)
  | .azidx, s => azidx (s.enter .azidx)
  | .xform, s => xform (s.enter .xform)
  | .tstamp, s => tstamp (s.enter .tstamp)
  | .append, s => append (s.enter .append)

theorem exec_phase (p : Phase) (s : State) : exec p.instr s = .next (phaseOp p s) := by cases p <;> rfl

theorem exec_cause (c : Cause) (s : State) : exec c.instr s = .next (s.raise c) := by cases c <;> rfl

/-- What a command word does to the state: the word is taken up, then the command runs to completion (R130). -/
inductive Command : (State → State) → Prop
  | cfgwr (word : BitVec 48) (a : BitVec 12) (d : BitVec 32) : Command fun s => cfgwr (s.accept word) a d
  | init (word : BitVec 48) : Command fun s => initialise (s.accept word)
  | recv (word : BitVec 48) (len : BitVec 12) (payload : List Byte) : Command fun s => receive (s.accept word) len payload
  | setch (word : BitVec 48) (a : BitVec 12) : Command fun s => setChannel (s.accept word) a
  | reserved (word : BitVec 48) : Command fun s => reserved (s.accept word)

/-- What a row of the opcode table does to the state. -/
inductive Row : (State → State) → Prop
  | command {f : State → State} (h : Command f) : Row f
  | blkUpper (rot : BitVec 16) (rd : Vector Reading 32) : Row fun s => placeBlock s s.cfg.bankUpper rot rd
  | blkLower (rot : BitVec 16) (rd : Vector Reading 32) : Row fun s => placeBlock s s.cfg.bankLower rot rd
  | pktTrailer (ts : BitVec 32) (factory : BitVec 16) : Row fun s => placeTrailer s ts factory
  | phase (p : Phase) : Row (phaseOp p)
  | cause (c : Cause) : Row fun s => s.raise c

/-- An instruction encoded as a command word is one of the five kinds of command. -/
theorem command_of_encode {cfg : Config} {i : Instr} {word : BitVec 48} {payload : List Byte}
    (h : encode cfg i = .cmd word payload) : ∃ f, Command f ∧ ∀ s, exec i s = .next (f s) := by
  cases i with
  | cfgwr a d => exact ⟨_, .cfgwr (cmdWord 1 a d) a d, fun _ => rfl⟩
  | init a d => exact ⟨_, .init (cmdWord 2 a d), fun _ => rfl⟩
  | recv len d payload => exact ⟨_, .recv (cmdWord 3 len d) len payload, fun _ => rfl⟩
  | setch a d => exact ⟨_, .setch (cmdWord 4 a d) a, fun _ => rfl⟩
  | reserved0 a d => exact ⟨_, .reserved (cmdWord 0 a d), fun _ => rfl⟩
  | reserved5 a d => exact ⟨_, .reserved (cmdWord 5 a d), fun _ => rfl⟩
  | reserved6 a d => exact ⟨_, .reserved (cmdWord 6 a d), fun _ => rfl⟩
  | reserved7 a d => exact ⟨_, .reserved (cmdWord 7 a d), fun _ => rfl⟩
  | reserved8 a d => exact ⟨_, .reserved (cmdWord 8 a d), fun _ => rfl⟩
  | reserved9 a d => exact ⟨_, .reserved (cmdWord 9 a d), fun _ => rfl⟩
  | reservedA a d => exact ⟨_, .reserved (cmdWord 10 a d), fun _ => rfl⟩
  | reservedB a d => exact ⟨_, .reserved (cmdWord 11 a d), fun _ => rfl⟩
  | reservedC a d => exact ⟨_, .reserved (cmdWord 12 a d), fun _ => rfl⟩
  | reservedD a d => exact ⟨_, .reserved (cmdWord 13 a d), fun _ => rfl⟩
  | reservedE a d => exact ⟨_, .reserved (cmdWord 14 a d), fun _ => rfl⟩
  | reservedF a d => exact ⟨_, .reserved (cmdWord 15 a d), fun _ => rfl⟩
  | _ => cases h

/-- A command word decodes to an instruction that is encoded as one. -/
theorem encode_of_decodeCmd {cfg : Config} {w : BitVec 48} {payload : List Byte} {i : Instr}
    (h : decodeCmd w payload = .ok i) : ∃ word p, encode cfg i = .cmd word p := by
  unfold decodeCmd at h
  split at h
  · split at h
    · cases h; exact ⟨_, _, rfl⟩
    · cases h
  · split at h
    · cases h
    · split at h <;> cases h <;> exact ⟨_, _, rfl⟩

theorem command_of_decode {cfg : Config} {w : BitVec 48} {payload : List Byte} {i : Instr}
    (h : decode cfg (.cmd w payload) = .ok i) : ∃ f, Command f ∧ ∀ s, exec i s = .next (f s) := by
  obtain ⟨word, p, he⟩ := encode_of_decodeCmd (cfg := cfg) h
  exact command_of_encode he

/-- R130: every instruction is a row, and its meaning is a total function of the state. -/
theorem exec_row (i : Instr) : ∃ f, Row f ∧ ∀ s, exec i s = .next (f s) := by
  have hphase (p : Phase) : ∃ f, Row f ∧ ∀ s, exec p.instr s = .next (f s) := ⟨_, .phase p, exec_phase p⟩
  have hcause (c : Cause) : ∃ f, Row f ∧ ∀ s, exec c.instr s = .next (f s) := ⟨_, .cause c, exec_cause c⟩
  have hcommand {j : Instr} {word : BitVec 48} {p : List Byte} (h : encode Config.ref j = .cmd word p) :
      ∃ f, Row f ∧ ∀ s, exec j s = .next (f s) := by
    obtain ⟨f, hf, he⟩ := command_of_encode h
    exact ⟨f, .command hf, he⟩
  cases i with
  | blkUpper rot rd => exact ⟨_, .blkUpper rot rd, fun _ => rfl⟩
  | blkLower rot rd => exact ⟨_, .blkLower rot rd, fun _ => rfl⟩
  | pktTrailer ts factory => exact ⟨_, .pktTrailer ts factory, fun _ => rfl⟩
  | idle => exact hphase .idle
  | valSize => exact hphase .valSize
  | valHdr => exact hphase .valHdr
  | valAlt => exact hphase .valAlt
  | tsld => exact hphase .tsld
  | rotld => exact hphase .rotld
  | delta => exact hphase .delta
  | firbase => exact hphase .firbase
  | fdelta => exact hphase .fdelta
  | chdec => exact hphase .chdec
  | interp => exact hphase .interp
  | boundary => exact hphase .boundary
  | finalize => exact hphase .finalize
  | emitBatch => exact hphase .emitBatch
  | emitScan => exact hphase .emitScan
  | newsweep => exact hphase .newsweep
  | fltRange => exact hphase .fltRange
  | fltAz => exact hphase .fltAz
  | azidx => exact hphase .azidx
  | xform => exact hphase .xform
  | tstamp => exact hphase .tstamp
  | append => exact hphase .append
  | diagBadSize => exact hcause .badSize
  | diagBadHeader => exact hcause .badHeader
  | diagBadAlternation => exact hcause .badAlternation
  | diagAzOutOfRange => exact hcause .azOutOfRange
  | diagConfigError => exact hcause .configError
  | diagNotRunning => exact hcause .notRunning
  | diagBadCmd => exact hcause .badCmd
  | diagCfgLocked => exact hcause .cfgLocked
  | diagSweepOverflow => exact hcause .sweepOverflow
  | _ => exact hcommand rfl

/-! ### Steps -/

/-- R5, R43, R263: the four things a step can be. -/
inductive StepCase (s t : State) : Prop
  /-- inside a command: one operation, and the sequencer moves on -/
  | operation (busy : s.work.phase ≠ .idle) (result : t = (phaseOp s.work.phase s).advance s.work.phase)
  /-- nothing is pending -/
  | waiting (idle : s.work.phase = .idle) (inbox : s.inbox = []) (result : t = s)
  /-- the reset pin -/
  | reset (rest : List Request) (idle : s.work.phase = .idle) (inbox : s.inbox = .reset :: rest)
      (result : t = ({ s with inbox := rest } : State).resetPin)
  /-- the first pending item -/
  | request (rest : List Request) (item : Item) (i : Instr) (idle : s.work.phase = .idle)
      (inbox : s.inbox = .item item :: rest) (decoded : decode s.cfg item = .ok i)
      (result : exec i { s with inbox := rest } = .next t)

theorem fetch_of_busy {s : State} (h : s.work.phase ≠ .idle) : s.fetch = .phase s.work.phase := if_pos (busy_iff.2 h)

/-- R42, R263: inside a command a step runs the operation PHASE names and moves the sequencer on. -/
theorem step_of_busy {s : State} (hparams : paramsOk s.cfg = true) (h : s.work.phase ≠ .idle) :
    step s = .next ((phaseOp s.work.phase s).advance s.work.phase) := by
  rw [step, if_pos hparams, fetch_of_busy h]
  dsimp only
  rw [exec_phase]

theorem step_of_waiting {s : State} (hparams : paramsOk s.cfg = true) (hidle : s.work.phase = .idle) (h : s.inbox = []) :
    step s = .next s := by
  have hfetch : s.fetch = .waiting := by simp [State.fetch, not_busy_iff.2 hidle, h]
  rw [step, if_pos hparams, hfetch]; rfl

theorem paramsOk_of_step {s t : State} (h : step s = .next t) : paramsOk s.cfg = true := by
  by_contra hbad
  rw [step_of_not_paramsOk hbad] at h
  cases h

theorem stepCase_of_step {s t : State} (h : step s = .next t) : StepCase s t := by
  have hparams := paramsOk_of_step h
  by_cases hidle : s.work.phase = .idle
  · match hinbox : s.inbox with
    | [] =>
      rw [step_of_waiting hparams hidle hinbox] at h
      cases h; exact .waiting hidle hinbox rfl
    | .reset :: rest =>
      rw [step_of_fetch_reset hparams (fetch_of_reset hidle hinbox)] at h
      cases h; exact .reset rest hidle hinbox rfl
    | .item item :: rest =>
      match hdecode : decode s.cfg item with
      | .ok i =>
        rw [step_of_fetch_run hparams (fetch_of_decoded_item hidle hinbox hdecode)] at h
        exact .request rest item i hidle hinbox hdecode h
      | .error why =>
        have hfetch : s.fetch = .rejected why := by simp [State.fetch, not_busy_iff.2 hidle, hinbox, hdecode]
        rw [step, if_pos hparams, hfetch] at h
        cases h
  · rw [step_of_busy hparams hidle] at h
    cases h; exact .operation hidle rfl

theorem step_of_stepCase {s t : State} (hparams : paramsOk s.cfg = true) (h : StepCase s t) : step s = .next t := by
  cases h with
  | operation busy result => rw [result]; exact step_of_busy hparams busy
  | waiting idle inbox result => rw [result]; exact step_of_waiting hparams idle inbox
  | reset rest idle inbox result => rw [result]; exact step_of_fetch_reset hparams (fetch_of_reset idle inbox)
  | request rest item i idle inbox decoded result =>
    rw [step_of_fetch_run hparams (fetch_of_decoded_item idle inbox decoded)]; exact result

/-- Settles O6: the meaning of the phase's instruction is the operation that `step` runs. -/
theorem sequencerPhaseIsRun : Obligations.SequencerPhaseIsRun := by
  intro s t hparams hbusy h
  rw [exec_phase] at h
  cases h
  exact step_of_busy hparams hbusy

end Sys2Proof.Machine
end

section
/-! PROOFS for `10_state.md`: what no row touches. The build parameters and the events already emitted survive every row
(R45, R49, R51); MODE and the configuration survive every row but CFGWR, INIT and a fatal report (R20, R245, R265). -/

namespace Sys2Proof.Machine

/-- The build parameters and the pending requests are untouched and events are only added. -/
structure Extends (s t : State) : Prop where
  cfg : t.cfg = s.cfg
  inbox : t.inbox = s.inbox
  out : s.out <+: t.out

theorem Extends.refl (s : State) : Extends s s := ⟨rfl, rfl, List.prefix_rfl⟩

theorem Extends.trans {s t u : State} (h : Extends s t) (h' : Extends t u) : Extends s u :=
  ⟨h'.cfg.trans h.cfg, h'.inbox.trans h.inbox, h.out.trans h'.out⟩

theorem Grows.extends {s t : State} (h : Grows s t) : Extends s t := ⟨h.setup.cfg, h.setup.inbox, h.out⟩

/-! ### Phases and the sequencer -/

theorem grows_emitBatch (s : State) : Grows s (emitBatch s) := grows_emit s _

theorem grows_emitScan (s : State) : Grows s (emitScan s) := by
  rw [emitScan_spec]; exact ⟨by constructor <;> rfl, List.prefix_append _ _⟩

theorem grows_append (s : State) : Grows s (append s) := by
  rw [append_spec]
  exact grows_ite ⟨by constructor <;> rfl, List.prefix_rfl⟩
    (grows_ite (Grows.refl s) ⟨by constructor <;> rfl, List.prefix_append _ _⟩)

theorem grows_phaseOp (p : Phase) (s : State) : Grows s (phaseOp p s) := by
  have hseek (q : Phase) : Grows s (s.enter q) := grows_seek s q _ _ _
  cases p with
  | idle => exact Grows.refl s
  | valSize => exact (hseek _).trans (grows_valSize _)
  | valHdr => exact (hseek _).trans (grows_valHdr _)
  | valAlt => exact (hseek _).trans (grows_valAlt _)
  | rotld => exact (hseek _).trans (grows_rotld _)
  | boundary => exact (hseek _).trans (grows_boundary _)
  | finalize => exact (hseek _).trans (grows_finalize _)
  | emitBatch => exact (hseek _).trans (grows_emitBatch _)
  | emitScan => exact (hseek _).trans (grows_emitScan _)
  | newsweep => exact (hseek _).trans (grows_newsweep _)
  | append => exact (hseek _).trans (grows_append _)
  | tsld | delta | firbase | fdelta | chdec | interp | fltRange | fltAz | azidx | xform | tstamp => exact grows_work s _

/-- The moves of the sequencer: to a position, to the channels of a firing, or to the end of the command. -/
theorem advance_cases {P : State → Prop} (s : State) (p : Phase) (hstay : P s) (hseek : ∀ q k j c, P (s.seek q k j c))
    (hstart : P s.startChannels) (hend : P s.endCommand) : P (s.advance p) := by
  have hloop (again after : Phase) : P (s.loopBlocks again after) := by
    unfold State.loopBlocks; split
    · exact hseek _ _ _ _
    · exact hseek _ _ _ _
  have hnext : P s.nextReading := by
    unfold State.nextReading; split
    · exact hseek _ _ _ _
    · split
      · exact hseek _ _ _ _
      · exact hend
  unfold State.advance
  split
  · cases p with
    | idle => exact hstay
    | valAlt | rotld | delta | firbase => exact hloop _ _
    | fdelta => dsimp only; split <;> exact hseek _ _ _ _
    | interp =>
      dsimp only; split
      · exact hseek _ _ _ _
      · split <;> exact hseek _ _ _ _
    | boundary =>
      dsimp only; split
      · exact hseek _ _ _ _
      · exact hstart
    | emitBatch => dsimp only; split <;> exact hseek _ _ _ _
    | newsweep => exact hstart
    | fltAz =>
      dsimp only; split
      · exact hseek _ _ _ _
      · exact hnext
    | append => exact hnext
    | valSize | valHdr | tsld | chdec | finalize | emitScan | fltRange | azidx | xform | tstamp => exact hseek _ _ _ _
  · exact hstay

theorem grows_advance (s : State) (p : Phase) : Grows s (s.advance p) :=
  advance_cases s p (Grows.refl s) (grows_seek s) ((grows_recordAz s).trans (grows_seek _ _ _ _ _)) (grows_endCommand s)

/-! ### The commands, once each -/

/-- R131, R245: CFGWR outside UNCONFIGURED. -/
theorem cfgwr_locked {s : State} (h : s.mode ≠ .unconfigured) (a : BitVec 12) (d : BitVec 32) :
    cfgwr s a d = s.raise .cfgLocked := if_pos h

/-- R132, R245: INIT outside UNCONFIGURED. -/
theorem initialise_locked {s : State} (h : s.mode ≠ .unconfigured) : initialise s = s.raise .cfgLocked := if_pos h

/-- R131: CFGWR is locked out, or names no register, or writes one. -/
theorem cfgwr_cases (s : State) (a : BitVec 12) (d : BitVec 32) :
    (∃ c, causeClass c = .endsCommand ∧ cfgwr s a d = s.raise c) ∨
    (s.mode = .unconfigured ∧ cfgwr s a d = (writeConfig s a d).endCommand) := by
  by_cases hmode : s.mode = .unconfigured
  · rw [cfgwr, if_neg (not_not.2 hmode)]
    split
    · exact .inl ⟨.badCmd, rfl, rfl⟩
    · exact .inr ⟨hmode, rfl⟩
  · exact .inl ⟨.cfgLocked, rfl, cfgwr_locked hmode a d⟩

/-- R132: INIT is locked out, or finds errors, or enters RUN. -/
theorem initialise_cases (s : State) :
    (s.mode ≠ .unconfigured ∧ initialise s = s.raise .cfgLocked) ∨
    (s.mode = .unconfigured ∧ initialise s = s.raise .configError) ∨
    (s.mode = .unconfigured ∧ s.configErrors = 0 ∧ initialise s = { s with mode := .run, work := Work.idle }) := by
  by_cases hmode : s.mode = .unconfigured
  · by_cases herr : s.configErrors = 0
    · exact .inr (.inr ⟨hmode, herr, by rw [initialise, if_neg (not_not.2 hmode), if_neg (not_not.2 herr)]; rfl⟩)
    · exact .inr (.inl ⟨hmode, by rw [initialise, if_neg (not_not.2 hmode), if_pos herr]⟩)
  · exact .inl ⟨hmode, initialise_locked hmode⟩

/-- R134: SETCH writes ACTIVE_CH when the index names a channel. -/
theorem setChannel_spec (s : State) (a : BitVec 12) : setChannel s a =
    { s with activeCh := if a.toNat ≤ 15 then a.extractLsb' 0 4 else s.activeCh, work := Work.idle } := by
  unfold setChannel; split <;> rfl

/-- R130: the seven things a command can do, whichever it is. -/
inductive CommandCase (s t : State) : Prop
  /-- a report ends it (R131 to R133, R135, R245) -/
  | rejected (word : BitVec 48) (c : Cause) (ends : causeClass c = .endsCommand) (result : t = (s.accept word).raise c)
  /-- CFGWR writes (R131) -/
  | configured (word : BitVec 48) (a : BitVec 12) (d : BitVec 32) (mode : s.mode = .unconfigured)
      (result : t = (writeConfig (s.accept word) a d).endCommand)
  /-- INIT finds errors (R132) -/
  | misconfigured (word : BitVec 48) (mode : s.mode = .unconfigured) (result : t = (s.accept word).raise .configError)
  /-- INIT enters RUN (R132) -/
  | started (mode : s.mode = .unconfigured) (free : s.configErrors = 0)
      (result : t = { s with mode := .run, work := Work.idle })
  /-- SETCH (R134) -/
  | selected (ch : Ch) (result : t = { s with activeCh := ch, work := Work.idle })
  /-- RECV of a packet that fails a check (R133, R154) -/
  | invalid (word : BitVec 48) (len : BitVec 12) (payload : List Byte) (mode : s.mode = .run)
      (ended : (validate ((s.accept word).loadPacket len payload)).busy = false)
      (result : t = validate ((s.accept word).loadPacket len payload))
  /-- RECV of a valid packet (R133) -/
  | processed (word : BitVec 48) (len : BitVec 12) (payload : List Byte) (mode : s.mode = .run)
      (valid : (validate ((s.accept word).loadPacket len payload)).busy = true)
      (result : t = processPacket (validate ((s.accept word).loadPacket len payload)))

theorem commandCase {f : State → State} (h : Command f) (s : State) : CommandCase s (f s) := by
  cases h with
  | cfgwr word a d =>
    rcases cfgwr_cases (s.accept word) a d with ⟨c, hc, h⟩ | ⟨hmode, h⟩
    · exact .rejected word c hc h
    · exact .configured word a d hmode h
  | init word =>
    rcases initialise_cases (s.accept word) with ⟨-, h⟩ | ⟨hmode, h⟩ | ⟨hmode, herr, h⟩
    · exact .rejected word _ rfl h
    · exact .misconfigured word hmode h
    · exact .started hmode herr h
  | recv word len payload =>
    by_cases hmode : s.mode = .run
    · have hrun : receive (s.accept word) len payload =
          if (validate ((s.accept word).loadPacket len payload)).busy
          then processPacket (validate ((s.accept word).loadPacket len payload))
          else validate ((s.accept word).loadPacket len payload) := if_neg (not_not.2 hmode)
      cases hbusy : (validate ((s.accept word).loadPacket len payload)).busy with
      | false => exact .invalid word len payload hmode hbusy (hrun.trans (if_neg (ne_true_of_eq_false hbusy)))
      | true => exact .processed word len payload hmode hbusy (hrun.trans (if_pos hbusy))
    · exact .rejected word .notRunning rfl (if_pos hmode)
  | setch word a => exact .selected _ (setChannel_spec (s.accept word) a)
  | reserved word => exact .rejected word .badCmd rfl rfl

/-! ### Rows -/

theorem extends_work (s : State) (w : Work) : Extends s { s with work := w } := ⟨rfl, rfl, List.prefix_rfl⟩

theorem extends_raise (s : State) (c : Cause) : Extends s (s.raise c) := by
  cases hc : causeClass c with
  | endsCommand | continues => exact (grows_raise s (by rw [hc]; decide)).extends
  | fatal => rw [raise_fatal hc]; exact ⟨rfl, rfl, List.prefix_append _ _⟩

/-- R131: a configuration write touches the nine registers only. -/
theorem writeConfig_frame (s : State) (a : BitVec 12) (d : BitVec 32) :
    let u := writeConfig s a d
    u = { s with
      minRange := u.minRange, maxRange := u.maxRange
      angleDisableMin := u.angleDisableMin, angleDisableMax := u.angleDisableMax
      angle3DisableMin := u.angle3DisableMin, angle3DisableMax := u.angle3DisableMax
      distRes := u.distRes, distMax := u.distMax, emitCtrl := u.emitCtrl } := by
  dsimp only
  unfold writeConfig
  split <;> rfl

theorem extends_writeConfig (s : State) (a : BitVec 12) (d : BitVec 32) : Extends s (writeConfig s a d) := by
  rw [writeConfig_frame]; exact ⟨rfl, rfl, List.prefix_rfl⟩

theorem extends_command {f : State → State} (h : Command f) (s : State) : Extends s (f s) := by
  have haccept (word : BitVec 48) : Extends s (s.accept word) := extends_work s _
  have hload (word : BitVec 48) (len : BitVec 12) (payload : List Byte) :
      Grows s ((s.accept word).loadPacket len payload) := grows_work s _
  cases commandCase h s with
  | rejected word c ends result => rw [result]; exact (haccept word).trans (extends_raise _ c)
  | configured word a d mode result =>
    rw [result]; exact (haccept word).trans ((extends_writeConfig _ a d).trans (extends_work _ _))
  | misconfigured word mode result => rw [result]; exact (haccept word).trans (extends_raise _ _)
  | started mode free result => rw [result]; exact ⟨rfl, rfl, List.prefix_rfl⟩
  | selected ch result => rw [result]; exact ⟨rfl, rfl, List.prefix_rfl⟩
  | invalid word len payload mode ended result =>
    rw [result]; exact ((hload word len payload).trans (grows_validate _)).extends
  | processed word len payload mode valid result =>
    rw [result]; exact (((hload word len payload).trans (grows_validate _)).trans (grows_processPacket _)).extends

theorem grows_decodeBlockFields (s : State) (k : Fin 12) : Grows s (decodeBlockFields s k) :=
  ((grows_seek s .rotld k 0 0).trans (grows_rotld _)).trans
    (grows_foldl _ _ (fun s j => grows_foldl channels _ (fun s c => (grows_seek s .chdec k j c).trans (grows_chdec _)) s) _)

theorem grows_placeBlock (s : State) (hdr rot : BitVec 16) (rd : Vector Reading 32) : Grows s (placeBlock s hdr rot rd) :=
  ((grows_work s _).trans (grows_checkBlock _ _)).trans
    (grows_ite ((grows_decodeBlockFields _ _).trans (grows_seek _ _ _ _ _)) (Grows.refl _))

theorem extends_row {f : State → State} (h : Row f) (s : State) : Extends s (f s) := by
  cases h with
  | command h => exact extends_command h s
  | blkUpper rot rd => exact (grows_placeBlock s _ rot rd).extends
  | blkLower rot rd => exact (grows_placeBlock s _ rot rd).extends
  | pktTrailer ts factory => exact extends_work s _
  | phase p => exact (grows_phaseOp p s).extends
  | cause c => exact extends_raise s c

/-- No instruction touches the build parameters or the pending requests, and none withdraws an event. -/
theorem extends_exec {i : Instr} {s t : State} (h : exec i s = .next t) : Extends s t := by
  obtain ⟨f, hf, he⟩ := exec_row i
  rw [he] at h
  cases h
  exact extends_row hf s

theorem grows_operation (s : State) (p : Phase) : Grows s ((phaseOp p s).advance p) :=
  (grows_phaseOp p s).trans (grows_advance _ p)

/-- Settles O55: every step but a served reset only adds events. -/
theorem eventsAreNeverWithdrawn : Obligations.EventsAreNeverWithdrawn := by
  intro s t hnoreset h
  cases stepCase_of_step h with
  | operation busy result => rw [result]; exact (grows_operation s _).out
  | waiting idle inbox result => rw [result]
  | reset rest idle inbox result =>
    rcases hnoreset with hbusy | hnext
    · exact absurd idle hbusy
    · simp [State.resetNext, inbox] at hnext
  | request rest item i idle inbox decoded result => exact (extends_exec result).out

/-- Settles O57: no row writes the parameters, and the reset pin puts them back as they were. -/
theorem parametersNeverChange : Obligations.ParametersNeverChange := by
  intro s t h
  cases stepCase_of_step h with
  | operation busy result => rw [result]; exact (grows_operation s _).setup.cfg
  | waiting idle inbox result => rw [result]
  | reset rest idle inbox result => rw [result]; rfl
  | request rest item i idle inbox decoded result => exact (extends_exec result).cfg

/-! ### The configuration once MODE has left UNCONFIGURED -/

/-- R20, R245: once INIT has been taken a command leaves MODE and the configuration as they are; SETCH alone writes ACTIVE_CH. -/
theorem command_setup_of_configured {f : State → State} (h : Command f) {s : State}
    (hmode : s.mode ≠ .unconfigured) : ∃ ch, SameSetup { s with activeCh := ch } (f s) := by
  have hload (word : BitVec 48) (len : BitVec 12) (payload : List Byte) :
      Grows s ((s.accept word).loadPacket len payload) := grows_work s _
  cases commandCase h s with
  | rejected word c ends result =>
    rw [result]; exact ⟨s.activeCh, ((grows_work s _).trans (grows_raise _ (by rw [ends]; decide))).setup⟩
  | configured word a d mode result => exact absurd mode hmode
  | misconfigured word mode result => exact absurd mode hmode
  | started mode free result => exact absurd mode hmode
  | selected ch result => rw [result]; exact ⟨ch, by constructor <;> rfl⟩
  | invalid word len payload mode ended result =>
    rw [result]; exact ⟨s.activeCh, ((hload word len payload).trans (grows_validate _)).setup⟩
  | processed word len payload mode valid result =>
    rw [result]
    exact ⟨s.activeCh, (((hload word len payload).trans (grows_validate _)).trans (grows_processPacket _)).setup⟩

theorem command_of_host_item {cfg : Config} {item : Item} {i : Instr} (hhost : (Request.item item).fromHost = true)
    (h : decode cfg item = .ok i) : ∃ f, Command f ∧ ∀ s, exec i s = .next (f s) := by
  cases item with
  | cmd word payload => exact command_of_decode h
  | blk | pkt | seq | evt => cases hhost

/-- R271: the host's next item is a command. -/
theorem fromHost_of_hostNext {s : State} {r : Request} {rest : List Request} (h : s.hostNext = true)
    (hinbox : s.inbox = r :: rest) : r.fromHost = true := by
  simpa [State.hostNext, hinbox] using h

/-- Settles O56: inside a command nothing of the setup changes, and a command of the host changes ACTIVE_CH at most. -/
theorem configurationFrozenByInit : Obligations.ConfigurationFrozenByInit := by
  intro s t hmode hserved h
  suffices ∃ ch inbox, SameSetup { s with activeCh := ch, inbox := inbox } t by
    obtain ⟨ch, inbox, hs⟩ := this
    exact ⟨hs.mode, hs.minRange, hs.maxRange, hs.angleDisableMin, hs.angleDisableMax, hs.angle3DisableMin,
      hs.angle3DisableMax, hs.distRes, hs.distMax, hs.emitCtrl⟩
  cases stepCase_of_step h with
  | operation busy result => rw [result]; exact ⟨s.activeCh, s.inbox, (grows_operation s _).setup⟩
  | waiting idle inbox result => rw [result]; exact ⟨s.activeCh, s.inbox, SameSetup.refl s⟩
  | reset rest idle inbox result =>
    rcases hserved with hbusy | ⟨-, hnext⟩
    · exact absurd idle hbusy
    · simp [State.resetNext, inbox] at hnext
  | request rest item i idle inbox decoded result =>
    rcases hserved with hbusy | ⟨hhost, -⟩
    · exact absurd idle hbusy
    · obtain ⟨f, hf, he⟩ := command_of_host_item (fromHost_of_hostNext hhost inbox) decoded
      rw [he] at result
      cases result
      obtain ⟨ch, hs⟩ := command_setup_of_configured hf (s := { s with inbox := rest }) hmode
      exact ⟨ch, rest, hs⟩

end Sys2Proof.Machine
end

section
/-! PROOFS for `10_state.md`: the bounds of R53 (b) to (e), R161 and R168 (a) are an invariant of every step. One lemma per operation
that writes a bounded field; every other operation keeps the fields the bounds speak of. -/

namespace Sys2Proof.Machine

/-! ### What the bounds speak of -/

/-- The fields `State.Sound` reads. -/
def State.bounded (s : State) :=
  (s.cfg.sweepCap, s.sweep, s.lastAz, s.mode, s.minRange, s.maxRange, s.distRes, s.work.pkt, s.work.b, s.work.fir)

/-- An operation that keeps the bounded fields keeps the bounds. -/
theorem sound_of_bounded_eq {s t : State} (h : s.Sound) (heq : t.bounded = s.bounded) : t.Sound := by
  simp only [State.bounded, Prod.mk.injEq] at heq
  obtain ⟨hcap, hsweep, hlast, hmode, hmin, hmax, hres, hpkt, hb, hfir⟩ := heq
  exact ⟨by rw [hpkt]; exact h.pkt, by rw [hcap, hsweep]; exact h.sweepFits, by rw [hsweep]; exact h.sweepAz,
    by rw [hlast]; exact h.lastAz, by rw [hb]; exact h.rotations, by rw [hfir]; exact h.bases,
    by rw [hfir]; exact h.corrected, by rw [hmode, hmin, hmax, hres]; exact h.running⟩

theorem sound_ite {s t : State} {p : Prop} [Decidable p] (hs : p → s.Sound) (ht : ¬ p → t.Sound) :
    (if p then s else t).Sound := by
  split
  · exact hs ‹_›
  · exact ht ‹_›

theorem sound_foldl {α : Type} {f : State → α → State} (hf : ∀ s a, s.Sound → (f s a).Sound) (l : List α) {s : State}
    (h : s.Sound) : (l.foldl f s).Sound :=
  List.foldlRecOn l f h fun s hs a _ => hf s a hs

theorem sound_seek {s : State} (h : s.Sound) (p : Phase) (k : Fin 12) (j : Fin 2) (c : Fin 16) : (s.seek p k j c).Sound :=
  sound_of_bounded_eq h rfl

theorem sound_enter {s : State} (h : s.Sound) (p : Phase) : (s.enter p).Sound := sound_of_bounded_eq h rfl

/-- The idle transient state meets the bounds, whatever command word is latched in it. -/
theorem sound_idle_work {s : State} (h : s.Sound) (word : BitVec 48) :
    ({ s with work := { Work.idle with cmd := word } } : State).Sound where
  pkt := rfl
  sweepFits := h.sweepFits
  sweepAz := h.sweepAz
  lastAz := h.lastAz
  rotations := fun k => by simp [Work.idle]
  bases := fun g => by simp [Work.idle]
  corrected := fun g c => by simp [Work.idle]
  running := h.running

theorem sound_accept {s : State} (h : s.Sound) (word : BitVec 48) : (s.accept word).Sound := sound_idle_work h word

theorem sound_endCommand {s : State} (h : s.Sound) : s.endCommand.Sound := sound_idle_work h 0

theorem sound_raise {s : State} (h : s.Sound) (c : Cause) : (s.raise c).Sound := by
  have htold : (s.emit (.diag c.code (s.info c))).Sound := sound_of_bounded_eq h rfl
  cases hc : causeClass c with
  | endsCommand => rw [raise_endsCommand hc]; exact sound_endCommand htold
  | continues => rw [raise_continues hc]; exact htold
  | fatal =>
    rw [raise_fatal hc]
    exact { sound_endCommand htold with running := fun hrun => by cases hrun }

/-! ### Packet buffer -/

theorem sound_pkt {s : State} (h : s.Sound) {m : Memory} (hm : Memory.wf m = true) :
    ({ s with work := { s.work with pkt := m } } : State).Sound := { h with pkt := hm }

theorem sound_loadPacket {s : State} (h : s.Sound) (len : BitVec 12) (payload : List Byte) :
    (s.loadPacket len payload).Sound := { h with pkt := loadPacket_wf len payload h.pkt }

theorem flatMap_readingBytes_length (l : List Reading) : (l.flatMap readingBytes).length = 3 * l.length := by
  induction l with
  | nil => rfl
  | cons r l ih => rw [List.flatMap_cons, List.length_append, ih, List.length_cons]; simp [readingBytes]; omega

theorem blockBytes_length (hdr rot : BitVec 16) (rd : Vector Reading 32) : (blockBytes hdr rot rd).length = 100 := by
  simp only [blockBytes, List.length_append, leBytes_length, flatMap_readingBytes_length, Vector.length_toList]

theorem trailerBytes_length (ts : BitVec 32) (factory : BitVec 16) : (trailerBytes ts factory).length = 6 := by
  simp [trailerBytes]

/-! ### Validator -/

theorem sound_valSize {s : State} (h : s.Sound) : (valSize s).Sound :=
  sound_ite (fun _ => sound_raise h _) (fun _ => h)

theorem sound_valHdr {s : State} (h : s.Sound) : (valHdr s).Sound := by
  rw [valHdr_spec]
  exact sound_ite (fun _ => sound_of_bounded_eq (sound_endCommand h) rfl) (fun _ => sound_of_bounded_eq h rfl)

theorem sound_valAlt {s : State} (h : s.Sound) : (valAlt s).Sound :=
  sound_ite (fun _ => sound_raise h _) (fun _ => sound_of_bounded_eq h rfl)

theorem sound_checkBlock {s : State} (h : s.Sound) (k : Fin 12) : (checkBlock s k).Sound :=
  have hhdr := sound_valHdr (sound_seek h .valHdr k 0 0)
  sound_ite (fun _ => sound_valAlt (sound_seek hhdr _ _ _ _)) (fun _ => hhdr)

theorem sound_validate {s : State} (h : s.Sound) : (validate s).Sound :=
  sound_foldl (fun _ k hs => sound_ite (fun _ => sound_checkBlock hs k) (fun _ => hs)) _
    (sound_valSize (sound_seek h _ _ _ _))

/-! ### Decoder -/

theorem sound_tsld {s : State} (h : s.Sound) : (tsld s).Sound := sound_of_bounded_eq h rfl

theorem sound_delta {s : State} (h : s.Sound) : (delta s).Sound := sound_of_bounded_eq h rfl

theorem sound_fdelta {s : State} (h : s.Sound) : (fdelta s).Sound := sound_of_bounded_eq h rfl

/-- R161: the rotation stored is in range. -/
theorem sound_rotld {s : State} (h : s.Sound) : (rotld s).Sound := by
  rw [rotld_spec]
  refine { h with rotations := fun k => ?_ }
  dsimp only
  rw [getElem_set_fin]
  split
  · split
    · decide
    · omega
  · exact h.rotations k

/-- A firing whose azimuths are legal may be written to the Firing file. -/
theorem sound_setFiring {s : State} (h : s.Sound) (g : Fin 24) {f : Firing} (hfa : f.fa.toNat < fullTurn)
    (haz : ∀ c : Fin 16, f.az[c].toNat < fullTurn) : (s.setFiring g f).Sound where
  pkt := h.pkt
  sweepFits := h.sweepFits
  sweepAz := h.sweepAz
  lastAz := h.lastAz
  rotations := h.rotations
  bases := fun g' => by
    rw [setFiring_fir]; split
    · exact hfa
    · exact h.bases g'
  corrected := fun g' c => by
    rw [setFiring_fir]; split
    · exact haz c
    · exact h.corrected g' c
  running := h.running

/-- R163: the first base azimuth is below a turn because the rotation is, the second by its wrap. -/
theorem sound_firbase {s : State} (h : s.Sound) : (firbase s).Sound := by
  obtain ⟨f0, f1, hstate, hf0, hf1, hfa0, hfa1⟩ := firbase_spec s
  have hrot := h.rotations s.work.k
  have haz0 (c : Fin 16) : f0.az[c].toNat < fullTurn := by rw [hf0]; exact h.corrected _ c
  have haz1 (c : Fin 16) : f1.az[c].toNat < fullTurn := by rw [hf1]; exact h.corrected _ c
  rw [hstate]
  refine sound_setFiring (sound_setFiring h _ ?_ haz0) _ ?_ haz1
  · unfold rotMax at hrot; unfold fullTurn; omega
  · rw [hfa1]; exact Nat.mod_lt _ (by decide)

theorem sound_chdec {s : State} (h : s.Sound) : (chdec s).Sound := by
  obtain ⟨v, hstate, -⟩ := chdec_spec s
  rw [hstate]
  exact sound_setFiring h _ (h.bases _) (h.corrected _)

/-- R166: the corrected azimuth is below a turn by its wrap. -/
theorem sound_interp {s : State} (h : s.Sound) : (interp s).Sound := by
  obtain ⟨v, hstate, hv⟩ := interp_spec s
  rw [hstate]
  refine sound_setFiring h _ (h.bases _) fun c => ?_
  dsimp only
  rw [getElem_set_fin]
  split
  · rw [hv]; exact Nat.mod_lt _ (by decide)
  · exact h.corrected _ c

theorem sound_decodeReading {s : State} (h : s.Sound) (k : Fin 12) (j : Fin 2) (c : Fin 16) : (decodeReading s k j c).Sound :=
  sound_interp (sound_seek (sound_chdec (sound_seek h .chdec k j c)) .interp k j c)

theorem sound_decodeBases {s : State} (h : s.Sound) : (decodeBases s).Sound := by
  unfold decodeBases; dsimp only
  refine sound_foldl (fun _ kj hs => sound_fdelta (sound_seek hs .fdelta kj.1 kj.2 0)) _ ?_
  refine sound_foldl (fun _ k hs => sound_firbase (sound_seek hs .firbase k 0 0)) _ ?_
  refine sound_foldl (fun _ k hs => sound_delta (sound_seek hs .delta k 0 0)) _ ?_
  refine sound_foldl (fun _ k hs => sound_rotld (sound_seek hs .rotld k 0 0)) _ ?_
  exact sound_tsld (sound_seek h .tsld 0 0 0)

theorem sound_decodePacket {s : State} (h : s.Sound) : (decodePacket s).Sound := by
  unfold decodePacket
  exact sound_foldl (fun _ kj hs => sound_foldl
    (fun _ c hs => sound_decodeReading hs kj.1 kj.2 c) channels hs)
    firings (sound_decodeBases h)

/-! ### Transformer -/

theorem sound_fltRange {s : State} (h : s.Sound) : (fltRange s).Sound := sound_of_bounded_eq h rfl

theorem sound_fltAz {s : State} (h : s.Sound) : (fltAz s).Sound := sound_of_bounded_eq h rfl

theorem sound_azidx {s : State} (h : s.Sound) : (azidx s).Sound := sound_of_bounded_eq h rfl

theorem sound_xform {s : State} (h : s.Sound) : (xform s).Sound := sound_of_bounded_eq h rfl

theorem sound_tstamp {s : State} (h : s.Sound) : (tstamp s).Sound := sound_of_bounded_eq h rfl

/-! ### Accumulator -/

theorem sound_boundary {s : State} (h : s.Sound) : (boundary s).Sound := by
  rw [boundary_spec]; exact sound_of_bounded_eq h rfl

theorem sound_emitScan {s : State} (h : s.Sound) : (emitScan s).Sound := by
  rw [emitScan_spec]; exact sound_of_bounded_eq h rfl

theorem sound_finalize {s : State} (h : s.Sound) : (finalize s).Sound := by
  rw [finalize_spec]
  exact sound_ite (fun _ => sound_of_bounded_eq h rfl) (fun _ => sound_of_bounded_eq h rfl)

theorem sound_newsweep {s : State} (h : s.Sound) : (newsweep s).Sound :=
  { h with sweepFits := fun _ _ => Nat.zero_le _, sweepAz := fun _ he => absurd he List.not_mem_nil }

/-- R205, R168 (a): LAST_AZ takes a legal azimuth. -/
theorem sound_recordAz {s : State} (h : s.Sound) : (recordAz s).Sound := { h with lastAz := (h.bases _).le }

/-- R204: an entry that fits may be stored. -/
theorem sound_store {s : State} (h : s.Sound) (hroom : s.hasRoom = true) {e : SweepEntry} (he : e.azKey.toNat < fullTurn) :
    ({ s with sweep := s.sweep ++ [e] } : State).Sound where
  pkt := h.pkt
  sweepFits := fun cap hcap => by
    simp only at hcap
    simp only [State.hasRoom, hcap, decide_eq_true_eq] at hroom
    rw [List.length_append, List.length_singleton]; exact hroom
  sweepAz := fun e' he' => by
    rcases List.mem_append.1 he' with hold | hnew
    · exact h.sweepAz e' hold
    · rw [List.mem_singleton.1 hnew]; exact he
  lastAz := h.lastAz
  rotations := h.rotations
  bases := h.bases
  corrected := h.corrected
  running := h.running

theorem sound_append {s : State} (h : s.Sound) : (append s).Sound := by
  rw [append_spec]
  exact sound_ite (fun hroom => sound_store h hroom (h.corrected _ _))
    (fun _ => sound_ite (fun _ => h) (fun _ => sound_of_bounded_eq h rfl))

theorem sound_processReading {s : State} (h : s.Sound) (k : Fin 12) (j : Fin 2) (c : Fin 16) :
    (processReading s k j c).Sound := by
  unfold processReading; dsimp only
  have hfilters := sound_fltAz (sound_seek (sound_fltRange (sound_seek h .fltRange k j c)) .fltAz k j c)
  refine sound_ite (fun _ => ?_) (fun _ => hfilters)
  have hxform := sound_xform (sound_seek (sound_azidx (sound_seek hfilters .azidx k j c)) .xform k j c)
  exact sound_append (sound_seek (sound_tstamp (sound_seek hxform .tstamp k j c)) .append k j c)

theorem sound_openFiring {s : State} (h : s.Sound) (k : Fin 12) (j : Fin 2) : (openFiring s k j).Sound :=
  have hboundary := sound_boundary (sound_seek h .boundary k j 0)
  sound_recordAz (sound_ite
    (fun _ => sound_newsweep (sound_seek (sound_finalize (sound_seek hboundary _ _ _ _)) _ _ _ _)) (fun _ => hboundary))

theorem sound_processFiring {s : State} (h : s.Sound) (k : Fin 12) (j : Fin 2) : (processFiring s k j).Sound := by
  unfold processFiring
  exact sound_foldl (fun _ c hs => sound_processReading hs k j c) channels (sound_openFiring h k j)

theorem sound_accumulate {s : State} (h : s.Sound) : (accumulate s).Sound := by
  unfold accumulate
  refine sound_foldl (fun s kj hs => ?_) firings h
  exact sound_processFiring hs kj.1 kj.2

theorem sound_processPacket {s : State} (h : s.Sound) : (processPacket s).Sound := by
  unfold processPacket
  exact sound_endCommand (sound_accumulate (sound_decodePacket h))

/-! ### Rows -/

theorem sound_phaseOp {s : State} (h : s.Sound) (p : Phase) : (phaseOp p s).Sound := by
  cases p with
  | idle => exact h
  | valSize => exact sound_valSize (sound_enter h _)
  | valHdr => exact sound_valHdr (sound_enter h _)
  | valAlt => exact sound_valAlt (sound_enter h _)
  | rotld => exact sound_rotld (sound_enter h _)
  | firbase => exact sound_firbase (sound_enter h _)
  | chdec => exact sound_chdec (sound_enter h _)
  | interp => exact sound_interp (sound_enter h _)
  | boundary => exact sound_boundary (sound_enter h _)
  | finalize => exact sound_finalize (sound_enter h _)
  | emitScan => exact sound_emitScan (sound_enter h _)
  | newsweep => exact sound_newsweep (sound_enter h _)
  | append => exact sound_append (sound_enter h _)
  | tsld | delta | fdelta | emitBatch | fltRange | fltAz | azidx | xform | tstamp => exact sound_of_bounded_eq h rfl

theorem sound_advance {s : State} (h : s.Sound) (p : Phase) : (s.advance p).Sound :=
  advance_cases s p h (sound_seek h) (sound_seek (sound_recordAz h) _ _ _ _) (sound_endCommand h)

/-- R131: in UNCONFIGURED no bound speaks of the configuration. -/
theorem sound_writeConfig {s : State} (h : s.Sound) (hmode : s.mode = .unconfigured) (a : BitVec 12) (d : BitVec 32) :
    (writeConfig s a d).Sound := by
  have hrun {P : Prop} : s.mode = .run → P := fun hr => by rw [hmode] at hr; cases hr
  rw [writeConfig_frame]
  exact { h with running := hrun }

/-- R132: INIT finds no error exactly when the range order and the resolution are right. -/
theorem configErrors_eq_zero_iff {s : State} :
    s.configErrors = 0 ↔ s.minRange ≤ s.maxRange ∧ 1 ≤ s.distRes.toNat := by
  have hres : s.distRes = 0 ↔ ¬ 1 ≤ s.distRes.toNat := by
    rw [← BitVec.toNat_inj]; simp
  have hrange : s.minRange > s.maxRange ↔ ¬ s.minRange ≤ s.maxRange := BitVec.not_le.symm
  unfold State.configErrors
  rw [if_congr hrange rfl rfl, if_congr hres rfl rfl]
  by_cases h1 : s.minRange ≤ s.maxRange <;> by_cases h2 : 1 ≤ s.distRes.toNat <;> simp [h1, h2]

theorem sound_command {f : State → State} (hf : Command f) {s : State} (h : s.Sound) : (f s).Sound := by
  have hvalidated (word : BitVec 48) (len : BitVec 12) (payload : List Byte) :
      (validate ((s.accept word).loadPacket len payload)).Sound :=
    sound_validate (sound_loadPacket (sound_accept h word) len payload)
  cases commandCase hf s with
  | rejected word c ends result => rw [result]; exact sound_raise (sound_accept h word) c
  | configured word a d mode result =>
    rw [result]; exact sound_endCommand (sound_writeConfig (sound_accept h word) mode a d)
  | misconfigured word mode result => rw [result]; exact sound_raise (sound_accept h word) _
  | started mode free result =>
    rw [result]; exact { sound_endCommand h with running := fun _ => configErrors_eq_zero_iff.1 free }
  | selected ch result => rw [result]; exact sound_of_bounded_eq (sound_endCommand h) rfl
  | invalid word len payload mode ended result => rw [result]; exact hvalidated word len payload
  | processed word len payload mode valid result => rw [result]; exact sound_processPacket (hvalidated word len payload)

theorem sound_decodeBlockFields {s : State} (h : s.Sound) (k : Fin 12) : (decodeBlockFields s k).Sound :=
  sound_foldl (fun _ j hs => sound_foldl (fun _ c hs => sound_chdec (sound_seek hs .chdec k j c)) channels hs) _
    (sound_rotld (sound_seek h _ _ _ _))

theorem sound_placeBlock {s : State} (h : s.Sound) (hdr rot : BitVec 16) (rd : Vector Reading 32) :
    (placeBlock s hdr rot rd).Sound := by
  have hinside : 100 * s.work.k.val + (blockBytes hdr rot rd).length ≤ packetBytes := by
    have := s.work.k.isLt
    rw [blockBytes_length]; unfold packetBytes; omega
  have hchecked := sound_checkBlock (sound_pkt h (Memory.wf_writeAll _ h.pkt hinside)) s.work.k
  exact sound_ite (fun _ => sound_seek (sound_decodeBlockFields hchecked _) _ _ _ _) (fun _ => hchecked)

theorem sound_placeTrailer {s : State} (h : s.Sound) (ts : BitVec 32) (factory : BitVec 16) :
    (placeTrailer s ts factory).Sound := by
  have hinside : 1200 + (trailerBytes ts factory).length ≤ packetBytes := by rw [trailerBytes_length]
  exact sound_of_bounded_eq (sound_pkt h (Memory.wf_writeAll _ h.pkt hinside)) rfl

theorem sound_row {f : State → State} (hf : Row f) {s : State} (h : s.Sound) : (f s).Sound := by
  cases hf with
  | command hf => exact sound_command hf h
  | blkUpper rot rd => exact sound_placeBlock h _ rot rd
  | blkLower rot rd => exact sound_placeBlock h _ rot rd
  | pktTrailer ts factory => exact sound_placeTrailer h ts factory
  | phase p => exact sound_phaseOp h p
  | cause c => exact sound_raise h c

theorem sound_inbox {s : State} (h : s.Sound) (rest : List Request) : ({ s with inbox := rest } : State).Sound :=
  sound_of_bounded_eq h rfl

/-- R53, R136: the values of reset meet the bounds, whatever the parameters. -/
theorem sound_resetPin (s : State) : s.resetPin.Sound where
  pkt := reset_pkt_wf
  sweepFits := fun _ _ => Nat.zero_le _
  sweepAz := fun _ he => absurd he List.not_mem_nil
  lastAz := Nat.le_refl 1152000
  rotations := fun k => by simp [State.resetPin, State.reset, Work.idle]
  bases := fun g => by simp [State.resetPin, State.reset, Work.idle]
  corrected := fun g c => by simp [State.resetPin, State.reset, Work.idle]
  running := fun h => by cases h

/-- Settles O52: each of the four kinds of step keeps the bounds. -/
theorem everyStepKeepsSound : Obligations.EveryStepKeepsSound := by
  intro s t hs h
  cases stepCase_of_step h with
  | operation busy result => rw [result]; exact sound_advance (sound_phaseOp hs _) _
  | waiting idle inbox result => rw [result]; exact hs
  | reset rest idle inbox result => rw [result]; exact sound_resetPin _
  | request rest item i idle inbox decoded result =>
    obtain ⟨f, hf, he⟩ := exec_row i
    rw [he] at result
    cases result
    exact sound_row hf (sound_inbox hs rest)

end Sys2Proof.Machine
end

section
/-! PROOFS for `10_state.md`: what reset leaves (R52), that a command sees no transient value and leaves none (R41, R44, R50), and that
a block at rest comes to rest again after every command and reset, so along every run of the host (R53, R271). -/

namespace Sys2Proof.Machine

/-! ### The end of a command -/

theorem raise_work_of_endsCommand {s : State} {c : Cause} (h : causeClass c = .endsCommand) : (s.raise c).work = Work.idle := by
  rw [raise_endsCommand h]

theorem valSize_work_of_not_busy {s : State} (hs : s.busy = true) (h : (valSize s).busy = false) :
    (valSize s).work = Work.idle := by
  rw [valSize_spec] at h ⊢
  by_cases hsize : s.work.pktLen.toNat = packetBytes
  · rw [if_pos hsize, hs] at h; cases h
  · rw [if_neg hsize]

theorem checkBlock_work_of_not_busy {s : State} {k : Fin 12} (h : (checkBlock s k).busy = false) :
    (checkBlock s k).work = Work.idle := by
  rw [checkBlock_spec] at h ⊢
  by_cases hheader : s.work.header k ≠ s.cfg.bankUpper ∧ s.work.header k ≠ s.cfg.bankLower
  · rw [if_pos hheader]
  · rw [if_neg hheader] at h ⊢
    by_cases hrepeated : 0 < k.val ∧ s.work.header k = s.work.hdrPrev
    · rw [if_pos hrepeated]
    · rw [if_neg hrepeated] at h; cases h

/-- R154, R242: a validation that fails has ended the command. -/
theorem validate_work_of_not_busy (s : State) : (validate s).busy = false → (validate s).work = Work.idle := by
  refine List.foldlRecOn (motive := fun t : State => t.busy = false → t.work = Work.idle) blocks _
    (valSize_work_of_not_busy rfl) fun t ht k _ => ?_
  split
  · exact checkBlock_work_of_not_busy
  · exact ht

/-- R43, R130: every command leaves the idle transient state. -/
theorem command_work_idle {f : State → State} (hf : Command f) (s : State) : (f s).work = Work.idle := by
  cases commandCase hf s with
  | rejected word c ends result => rw [result]; exact raise_work_of_endsCommand ends
  | configured word a d mode result => rw [result]; rfl
  | misconfigured word mode result => rw [result, raise_fatal rfl]
  | started mode free result => rw [result]
  | selected ch result => rw [result]
  | invalid word len payload mode ended result => rw [result]; exact validate_work_of_not_busy _ ended
  | processed word len payload mode valid result => rw [result, processPacket, endCommand_work]

/-- R41: a command takes up its word with every transient value gone. -/
theorem command_ignores_work {f : State → State} (hf : Command f) (s : State) (w : Work) : f { s with work := w } = f s := by
  cases hf <;> rfl

/-- Settles O17: what a command finds is discarded when it is taken up, and what it leaves is idle. -/
theorem commandsShareNoTransientState : Obligations.CommandsShareNoTransientState := by
  intro cfg i word payload hcmd s
  obtain ⟨f, hf, he⟩ := command_of_encode hcmd
  refine ⟨fun w => ?_, fun t ht => ?_⟩
  · rw [he, he, command_ignores_work hf]
  · rw [he] at ht
    cases ht
    exact command_work_idle hf s

/-! ### The sweep state -/

/-- The state of the accumulator that outlives a command. -/
def State.sweepState (s : State) :=
  (s.accState, s.lastAz, s.firstSweep, s.sweepOvf, s.sweep, s.sweepStartTs)

theorem accState_of_sweepState_eq {s t : State} (h : t.sweepState = s.sweepState) : t.accState = s.accState :=
  congrArg Prod.fst h

theorem sweepState_foldl {α : Type} (l : List α) (f : State → α → State) (hf : ∀ s a, (f s a).sweepState = s.sweepState)
    (s : State) : (l.foldl f s).sweepState = s.sweepState :=
  List.foldlRecOn (motive := fun t : State => t.sweepState = s.sweepState) l f rfl fun t ht a _ => (hf t a).trans ht

theorem sweepState_raise (s : State) (c : Cause) : (s.raise c).sweepState = s.sweepState := by
  cases hc : causeClass c with
  | endsCommand => rw [raise_endsCommand hc]; rfl
  | continues => rw [raise_continues hc]; rfl
  | fatal => rw [raise_fatal hc]; rfl

theorem sweepState_writeConfig (s : State) (a : BitVec 12) (d : BitVec 32) :
    (writeConfig s a d).sweepState = s.sweepState := by
  rw [writeConfig_frame]; rfl

theorem sweepState_valSize (s : State) : (valSize s).sweepState = s.sweepState := by
  rw [valSize_spec]; split <;> rfl

theorem sweepState_checkBlock (s : State) (k : Fin 12) : (checkBlock s k).sweepState = s.sweepState := by
  rw [checkBlock_spec]
  split
  · rfl
  · split <;> rfl

/-- R154: the validator does not touch the sweep. -/
theorem sweepState_validate (s : State) : (validate s).sweepState = s.sweepState := by
  refine Eq.trans (sweepState_foldl blocks _ (fun t k => ?_) _) (sweepState_valSize _)
  split
  · exact sweepState_checkBlock t k
  · rfl

theorem sweepState_rotld (s : State) : (rotld s).sweepState = s.sweepState := by rw [rotld_spec]; rfl

theorem sweepState_seek (s : State) (p : Phase) (k : Fin 12) (j : Fin 2) (c : Fin 16) :
    (s.seek p k j c).sweepState = s.sweepState := rfl

theorem sweepState_chdec (s : State) : (chdec s).sweepState = s.sweepState := rfl

theorem sweepState_interp (s : State) : (interp s).sweepState = s.sweepState := rfl

theorem sweepState_delta (s : State) : (delta s).sweepState = s.sweepState := rfl

theorem sweepState_firbase (s : State) : (firbase s).sweepState = s.sweepState := rfl

theorem sweepState_fdelta (s : State) : (fdelta s).sweepState = s.sweepState := rfl

theorem sweepState_decodeReading (s : State) (k : Fin 12) (j : Fin 2) (c : Fin 16) :
    (decodeReading s k j c).sweepState = s.sweepState := by
  rw [decodeReading, sweepState_interp, sweepState_seek, sweepState_chdec, sweepState_seek]

theorem sweepState_decodeBases (s : State) : (decodeBases s).sweepState = s.sweepState := by
  unfold decodeBases; dsimp only
  refine (sweepState_foldl firings _ (fun t kj => sweepState_fdelta (t.seek .fdelta kj.1 kj.2 0)) _).trans ?_
  refine (sweepState_foldl blocks _ (fun t k => sweepState_firbase (t.seek .firbase k 0 0)) _).trans ?_
  refine (sweepState_foldl blocks _ (fun t k => sweepState_delta (t.seek .delta k 0 0)) _).trans ?_
  exact sweepState_foldl blocks _ (fun t k => sweepState_rotld (t.seek .rotld k 0 0)) _

/-- R160: the decoder does not touch the sweep. -/
theorem sweepState_decodePacket (s : State) : (decodePacket s).sweepState = s.sweepState := by
  unfold decodePacket
  refine (sweepState_foldl firings _ (fun t kj => ?_) _).trans (sweepState_decodeBases s)
  exact sweepState_foldl channels _ (fun t c => sweepState_decodeReading t kj.1 kj.2 c) t

/-! ### What a processed packet leaves of the accumulator -/

theorem processReading_accState (s : State) (k : Fin 12) (j : Fin 2) (c : Fin 16) :
    (processReading s k j c).accState = s.accState := by
  obtain ⟨w, -, -, -, -, h | ⟨e, -, -, h⟩ | ⟨-, -, h⟩⟩ := processReading_cases s k j c <;> rw [h]

theorem processReading_lastAz (s : State) (k : Fin 12) (j : Fin 2) (c : Fin 16) :
    (processReading s k j c).lastAz = s.lastAz := by
  obtain ⟨w, -, -, -, -, h | ⟨e, -, -, h⟩ | ⟨-, -, h⟩⟩ := processReading_cases s k j c <;> rw [h]

/-- R206: a boundary is left through NEWSWEEP, which accumulates again. -/
theorem openFiring_accState {s : State} (h : s.accState = .accumulating) (k : Fin 12) (j : Fin 2) :
    (openFiring s k j).accState = .accumulating := by
  unfold openFiring; dsimp only
  rw [recordAz_accState]
  split
  · rfl
  · rename_i hno
    rw [boundary_spec] at hno ⊢
    exact (if_neg hno).trans h

theorem processFiring_accState {s : State} (h : s.accState = .accumulating) (k : Fin 12) (j : Fin 2) :
    (processFiring s k j).accState = .accumulating :=
  List.foldlRecOn (motive := fun t : State => t.accState = .accumulating) channels _ (openFiring_accState h k j)
    fun t ht c _ => (processReading_accState t k j c).trans ht

theorem accumulate_accState {s : State} (h : s.accState = .accumulating) : (accumulate s).accState = .accumulating := by
  unfold accumulate
  refine List.foldlRecOn (motive := fun t : State => t.accState = .accumulating) firings _ h fun t ht kj _ => ?_
  exact processFiring_accState ht kj.1 kj.2

/-- R205: after a firing LAST_AZ is a base azimuth, so below a full turn. -/
theorem processFiring_lastAz {s : State} (h : s.Sound) (k : Fin 12) (j : Fin 2) :
    (processFiring s k j).lastAz.toNat < fullTurn := by
  have hopen : (openFiring s k j).lastAz.toNat < fullTurn := (sound_openFiring h k j).bases (openFiring s k j).work.g
  exact List.foldlRecOn (motive := fun t : State => t.lastAz.toNat < fullTurn) channels _ hopen
    fun t ht c _ => by rw [processReading_lastAz]; exact ht

/-- R53 (d): once a packet has been processed LAST_AZ is below its value at reset; the last firing decides it. -/
theorem accumulate_lastAz {s : State} (h : s.Sound) : (accumulate s).lastAz.toNat < fullTurn := by
  have hlast : firings = firings.dropLast ++ [(11, 1)] := by decide
  unfold accumulate
  rw [hlast, List.foldl_append, List.foldl_cons, List.foldl_nil]
  refine processFiring_lastAz (sound_foldl (fun t kj ht => ?_) firings.dropLast h) 11 1
  exact sound_processFiring ht kj.1 kj.2

/-! ### Rest -/

/-- A block that came to the idle transient state without touching the sweep state, and did not leave RUN. -/
theorem resting_of_sweepState_eq {s t : State} (h : s.Resting) (hsound : t.Sound) (hidle : t.work = Work.idle)
    (hsame : t.sweepState = s.sweepState) (hmode : t.mode ≠ .run → s.mode ≠ .run) : t.Resting := by
  simp only [State.sweepState, Prod.mk.injEq] at hsame
  obtain ⟨hacc, hlast, hfirst, hovf, hsweep, hstart⟩ := hsame
  exact ⟨hsound, hidle, by rw [hacc]; exact h.accumulating, fun hm => by rw [hlast]; exact h.notRunning (hmode hm),
    by rw [hlast, hfirst, hovf, hsweep, hstart]; exact h.fresh⟩

/-- R53: a valid packet leaves the block in RUN, accumulating, with LAST_AZ below a full turn. -/
theorem resting_processPacket {s : State} (hsound : s.Sound) (hmode : s.mode = .run) (hacc : s.accState = .accumulating) :
    (processPacket s).Resting := by
  have hdecode : (decodePacket s).accState = .accumulating :=
    (accState_of_sweepState_eq (sweepState_decodePacket s)).trans hacc
  have hlast : (processPacket s).lastAz.toNat < fullTurn := by
    rw [processPacket, endCommand_lastAz]; exact accumulate_lastAz (sound_decodePacket hsound)
  exact {
    sound := sound_processPacket hsound
    idle := by rw [processPacket, endCommand_work]
    accumulating := by rw [processPacket, endCommand_accState]; exact accumulate_accState hdecode
    notRunning := fun hm => absurd ((grows_processPacket s).setup.mode.trans hmode) hm
    fresh := fun hf => absurd hf hlast.ne }

theorem resting_command {f : State → State} (hf : Command f) {s : State} (h : s.Resting) : (f s).Resting := by
  have hsound := sound_command hf h.sound
  have hidle := command_work_idle hf s
  cases commandCase hf s with
  | rejected word c ends result =>
    refine resting_of_sweepState_eq h hsound hidle (by rw [result]; exact sweepState_raise _ c) ?_
    rw [result, raise_endsCommand ends]; exact id
  | configured word a d mode result =>
    refine resting_of_sweepState_eq h hsound hidle (by rw [result]; exact sweepState_writeConfig _ a d) ?_
    rw [mode]; exact fun _ => Mode.noConfusion
  | misconfigured word mode result =>
    refine resting_of_sweepState_eq h hsound hidle (by rw [result]; exact sweepState_raise _ _) ?_
    rw [mode]; exact fun _ => Mode.noConfusion
  | started mode free result =>
    refine resting_of_sweepState_eq h hsound hidle (by rw [result]; rfl) ?_
    rw [mode]; exact fun _ => Mode.noConfusion
  | selected ch result =>
    refine resting_of_sweepState_eq h hsound hidle (by rw [result]; rfl) ?_
    rw [result]; exact id
  | invalid word len payload mode ended result =>
    refine resting_of_sweepState_eq h hsound hidle (by rw [result]; exact sweepState_validate _) ?_
    have hkept : (f s).mode = s.mode := by rw [result]; exact (grows_validate _).setup.mode
    rw [hkept]; exact id
  | processed word len payload mode valid result =>
    have hloaded := sound_loadPacket (sound_accept h.sound word) len payload
    rw [result]
    exact resting_processPacket (sound_validate hloaded) ((grows_validate _).setup.mode.trans mode)
      ((accState_of_sweepState_eq (sweepState_validate _)).trans h.accumulating)

theorem resting_inbox {s : State} (h : s.Resting) (rest : List Request) : ({ s with inbox := rest } : State).Resting :=
  resting_of_sweepState_eq h (sound_inbox h.sound rest) h.idle rfl id

/-- R52, R53: the reset pin leaves the block at rest, whatever the parameters. -/
theorem resting_resetPin (s : State) : s.resetPin.Resting where
  sound := sound_resetPin s
  idle := rfl
  accumulating := rfl
  notRunning := fun _ => rfl
  fresh := fun _ => ⟨rfl, rfl, rfl, rfl⟩

/-- Settles O7: `State.reset` is what the reset pin leaves of it, and the pin writes every element its value of R52. -/
theorem resetGivesStatedValues : Obligations.ResetGivesStatedValues := by
  refine ⟨fun _ => rfl, fun t ht => ?_⟩
  obtain ⟨s, rfl⟩ : ∃ s : State, t = s.resetPin := ht.elim (fun h => ⟨State.reset, h⟩) id
  exact ⟨rfl, rfl, rfl, rfl, rfl, rfl, rfl, rfl, rfl, rfl, rfl, rfl, rfl, rfl, rfl, rfl, rfl, rfl, rfl, rfl, rfl, rfl⟩

/-- Settles O51: `State.reset` is what the reset pin leaves of it. -/
theorem resetStateRests : Obligations.ResetStateRests :=
  ⟨resting_resetPin State.reset, sound_resetPin State.reset⟩

/-- Settles O53: a block at rest waits, is reset, or serves a command. -/
theorem hostStepKeepsResting : Obligations.HostStepKeepsResting := by
  intro s t hs hhost h
  have hphase : s.work.phase = .idle := by rw [hs.idle]; rfl
  cases stepCase_of_step h with
  | operation busy result => exact absurd hphase busy
  | waiting idle inbox result => rw [result]; exact hs
  | reset rest idle inbox result => rw [result]; exact resting_resetPin _
  | request rest item i idle inbox decoded result =>
    obtain ⟨f, hf, he⟩ := command_of_host_item (fromHost_of_hostNext hhost inbox) decoded
    rw [he] at result
    cases result
    exact resting_command hf (resting_inbox hs rest)

/-! ### Runs of the host -/

theorem hostNext_of_all {s : State} (h : s.inbox.all Request.fromHost = true) : s.hostNext = true := by
  unfold State.hostNext
  cases hinbox : s.inbox with
  | nil => rfl
  | cons r rest => rw [hinbox, List.all_cons, Bool.and_eq_true] at h; exact h.1

/-- A step of a block in IDLE takes at most the first request. -/
theorem step_inbox_all {s t : State} {P : Request → Bool} (hidle : s.work.phase = .idle) (hall : s.inbox.all P = true)
    (h : step s = .next t) : t.inbox.all P = true := by
  have htail {r : Request} {rest : List Request} (hinbox : s.inbox = r :: rest) : rest.all P = true := by
    rw [hinbox, List.all_cons, Bool.and_eq_true] at hall; exact hall.2
  cases stepCase_of_step h with
  | operation busy result => exact absurd hidle busy
  | waiting idle inbox result => rw [result]; exact hall
  | reset rest idle inbox result => rw [result]; exact htail inbox
  | request rest item i idle inbox decoded result => rw [(extends_exec result).inbox]; exact htail inbox

/-- The first step of a run that completes. -/
theorem step_of_core_run_succ {n : Nat} {s t : State} (h : Sys2Proof.core.run (n + 1) s = .next t) :
    ∃ u, step s = .next u ∧ Sys2Proof.core.run n u = .next t := by
  simp only [Host.Core.run, Host.Check.core_step] at h
  split at h
  · exact ⟨_, ‹_›, h⟩
  · cases h
  · cases h

/-- R53, R271: rest is kept along a run of host actions. -/
theorem resting_run (n : Nat) {s t : State} (hs : s.Resting) (hall : s.inbox.all Request.fromHost = true)
    (h : Sys2Proof.core.run n s = .next t) : t.Resting := by
  induction n generalizing s with
  | zero => cases h; exact hs
  | succ n ih =>
    obtain ⟨u, hstep, hrest⟩ := step_of_core_run_succ h
    have hphase : s.work.phase = .idle := by rw [hs.idle]; rfl
    exact ih (hostStepKeepsResting s u hs (hostNext_of_all hall) hstep) (step_inbox_all hphase hall hstep) hrest

/-- Settles O54: the state a run starts from is what the reset pin leaves, and rest is kept along the run. -/
theorem everyHostRunRests : Obligations.EveryHostRunRests := by
  intro cfg acts n t hacts h
  exact resting_run n (resting_resetPin { State.reset with cfg := cfg, inbox := acts }) hacts h

end Sys2Proof.Machine
end

section
/-! PROOFS for `10_state.md`: the symmetries of the reference azimuth ROM (R47). Each quarter turn is read off the first one, at both
of its ends; the symmetries are then identities between quarter turns. -/

namespace Sys2Proof.Machine

theorem quarterSin_zero : quarterSin 0 = 0 := by decide

theorem refSin_mod_turn (i : Nat) : refSin (i % 36000) = refSin i := by
  have hquarter : i % 36000 / 9000 % 4 = i / 9000 % 4 := by omega
  have hoffset : i % 36000 % 9000 = i % 9000 := by omega
  simp only [refSin, hquarter, hoffset]

/-- The first quarter turn, both ends included. -/
theorem refSin_first {r : Nat} (h : r ≤ 9000) : refSin r = quarterSin r := by
  rcases Nat.lt_or_eq_of_le h with hr | rfl
  · have hquarter : r / 9000 % 4 = 0 := by omega
    simp only [refSin, hquarter, Nat.mod_eq_of_lt hr]
  · rfl

/-- The second quarter turn mirrors the first. -/
theorem refSin_second {r : Nat} (h : r ≤ 9000) : refSin (9000 + r) = quarterSin (9000 - r) := by
  rcases Nat.lt_or_eq_of_le h with hr | rfl
  · have hquarter : (9000 + r) / 9000 % 4 = 1 := by omega
    have hoffset : (9000 + r) % 9000 = r := by omega
    simp only [refSin, hquarter, hoffset]
  · show -(quarterSin 0 : Int) = (quarterSin 0 : Int)
    rw [quarterSin_zero]; rfl

/-- The third quarter turn negates the first. -/
theorem refSin_third {r : Nat} (h : r ≤ 9000) : refSin (18000 + r) = -(quarterSin r : Int) := by
  rcases Nat.lt_or_eq_of_le h with hr | rfl
  · have hquarter : (18000 + r) / 9000 % 4 = 2 := by omega
    have hoffset : (18000 + r) % 9000 = r := by omega
    simp only [refSin, hquarter, hoffset]
  · rfl

/-- The fourth quarter turn negates the second. -/
theorem refSin_fourth {r : Nat} (h : r ≤ 9000) : refSin (27000 + r) = -(quarterSin (9000 - r) : Int) := by
  rcases Nat.lt_or_eq_of_le h with hr | rfl
  · have hquarter : (27000 + r) / 9000 % 4 = 3 := by omega
    have hoffset : (27000 + r) % 9000 = r := by omega
    simp only [refSin, hquarter, hoffset]
  · show (quarterSin 0 : Int) = -(quarterSin 0 : Int)
    rw [quarterSin_zero]; rfl

/-- R47: AZ_SIN is odd around the circle; quarter turn q at offset r meets quarter turn 3 − q at offset 9000 − r. -/
theorem refSin_reflect {i : Nat} (h : i < 36000) : refSin (36000 - i) = -refSin i := by
  have hback {r : Nat} (hr : r ≤ 9000) : 9000 - (9000 - r) = r := by omega
  rcases Nat.lt_or_ge i 9000 with h1 | h1
  · rw [refSin_first h1.le, show 36000 - i = 27000 + (9000 - i) by omega, refSin_fourth (by omega), hback h1.le]
  rcases Nat.lt_or_ge i 18000 with h2 | h2
  · obtain ⟨r, rfl⟩ := Nat.exists_eq_add_of_le h1
    rw [refSin_second (by omega), show 36000 - (9000 + r) = 18000 + (9000 - r) by omega, refSin_third (by omega)]
  rcases Nat.lt_or_ge i 27000 with h3 | h3
  · obtain ⟨r, rfl⟩ := Nat.exists_eq_add_of_le h2
    rw [refSin_third (by omega), show 36000 - (18000 + r) = 9000 + (9000 - r) by omega, refSin_second (by omega),
      hback (by omega), Int.neg_neg]
  · obtain ⟨r, rfl⟩ := Nat.exists_eq_add_of_le h3
    rw [refSin_fourth (by omega), show 36000 - (27000 + r) = 9000 - r by omega, refSin_first (by omega), Int.neg_neg]

theorem abs_le_of_natAbs_le {x : Int} (h : x.natAbs ≤ trigOne) : |x| ≤ 65536 := by
  rw [Int.abs_eq_natAbs]; exact_mod_cast h

/-- Settles O37: the reflection, the quarter turn between the two tables, and R8's bound. -/
theorem referenceRomSymmetries : Obligations.ReferenceRomSymmetries := by
  intro i hi
  refine ⟨?_, ?_, abs_le_of_natAbs_le (refSin_natAbs_le i), abs_le_of_natAbs_le (refCos_natAbs_le i)⟩
  · rw [refSin_mod_turn, refSin_reflect hi, Int.neg_neg]
  · exact (refSin_mod_turn _).symm

end Sys2Proof.Machine
end

section
/-! PROOFS for `10_state.md`: no rule reads DIST_MAX (R28) or uses FACTORY again (R100, R167). Two states that differ in one of the two
alone are run side by side: every operation keeps them so. -/

namespace Sys2Proof.Machine

/-- The two state elements that no rule reads. -/
inductive Unread where
  | distMax
  | factory

/-- The state with the element blanked. -/
def Unread.erase : Unread → State → State
  | .distMax, s => { s with distMax := 0 }
  | .factory, s => { s with work := { s.work with factory := 0 } }

/-- Two states that differ in the element alone. -/
def Unread.Same (x : Unread) (s t : State) : Prop := x.erase s = x.erase t

section
variable {x : Unread} {s t : State}

/-! ### How to show that an operation keeps two states the same -/

/-- An operation whose result, blanked, does not depend on the element. -/
theorem same_of (f : State → State) (hf : ∀ s, x.erase (f (x.erase s)) = x.erase (f s)) (h : x.Same s t) :
    x.Same (f s) (f t) :=
  calc x.erase (f s) = x.erase (f (x.erase s)) := (hf s).symm
    _ = x.erase (f (x.erase t)) := by rw [show x.erase s = x.erase t from h]
    _ = x.erase (f t) := hf t

/-- What does not depend on the element is equal in both states. -/
theorem view_eq {α : Type} (v : State → α) (hv : ∀ s, v (x.erase s) = v s) (h : x.Same s t) : v s = v t :=
  calc v s = v (x.erase s) := (hv s).symm
    _ = v (x.erase t) := by rw [show x.erase s = x.erase t from h]
    _ = v t := hv t

/-- A branch on what does not depend on the element. -/
theorem same_ite (p : State → Prop) [DecidablePred p] (hp : ∀ s, p (x.erase s) = p s) (h : x.Same s t)
    {a a' b b' : State} (ha : x.Same a a') (hb : x.Same b b') :
    x.Same (if p s then a else b) (if p t then a' else b') := by
  have hpt : p s = p t := view_eq p hp h
  by_cases hs : p s
  · rw [if_pos hs, if_pos (hpt ▸ hs)]; exact ha
  · rw [if_neg hs, if_neg (hpt ▸ hs)]; exact hb

theorem same_foldl {α : Type} (l : List α) {f : State → α → State} (hf : ∀ s t a, x.Same s t → x.Same (f s a) (f t a))
    (h : x.Same s t) : x.Same (l.foldl f s) (l.foldl f t) := by
  induction l generalizing s t with
  | nil => exact h
  | cons a l ih => exact ih (hf s t a h)

/-! ### What both states agree on -/

theorem same_cfg (h : x.Same s t) : s.cfg = t.cfg := view_eq State.cfg (fun _ => by cases x <;> rfl) h

theorem same_inbox_eq (h : x.Same s t) : s.inbox = t.inbox := view_eq State.inbox (fun _ => by cases x <;> rfl) h

theorem same_out (h : x.Same s t) : s.out = t.out := view_eq State.out (fun _ => by cases x <;> rfl) h

theorem same_phase (h : x.Same s t) : s.work.phase = t.work.phase :=
  view_eq (fun s => s.work.phase) (fun _ => by cases x <;> rfl) h

theorem same_k (h : x.Same s t) : s.work.k = t.work.k := view_eq (fun s => s.work.k) (fun _ => by cases x <;> rfl) h

theorem same_j (h : x.Same s t) : s.work.j = t.work.j := view_eq (fun s => s.work.j) (fun _ => by cases x <;> rfl) h

theorem same_c (h : x.Same s t) : s.work.c = t.work.c := view_eq (fun s => s.work.c) (fun _ => by cases x <;> rfl) h

/-- A branch on whether the command is still in progress. -/
theorem same_ite_busy (h : x.Same s t) {a a' b b' : State} (ha : x.Same a a') (hb : x.Same b b') :
    x.Same (if s.busy then a else b) (if t.busy then a' else b') :=
  same_ite (fun s => s.busy = true) (fun _ => by cases x <;> rfl) h ha hb

/-! ### Shared operations -/

theorem same_seek (h : x.Same s t) (p : Phase) (k : Fin 12) (j : Fin 2) (c : Fin 16) :
    x.Same (s.seek p k j c) (t.seek p k j c) := same_of (fun s => s.seek p k j c) (fun _ => by cases x <;> rfl) h

theorem same_enter (h : x.Same s t) (p : Phase) : x.Same (s.enter p) (t.enter p) :=
  same_of (fun s => s.enter p) (fun _ => by cases x <;> rfl) h

theorem same_endCommand (h : x.Same s t) : x.Same s.endCommand t.endCommand :=
  same_of State.endCommand (fun _ => by cases x <;> rfl) h

theorem same_accept (h : x.Same s t) (word : BitVec 48) : x.Same (s.accept word) (t.accept word) :=
  same_of (fun s => s.accept word) (fun _ => by cases x <;> rfl) h

theorem same_loadPacket (h : x.Same s t) (len : BitVec 12) (payload : List Byte) :
    x.Same (s.loadPacket len payload) (t.loadPacket len payload) :=
  same_of (fun s => s.loadPacket len payload) (fun _ => by cases x <;> rfl) h

theorem info_erase (x : Unread) (s : State) (c : Cause) : (x.erase s).info c = s.info c := by
  cases x <;> cases c <;> rfl

theorem same_raise (h : x.Same s t) (c : Cause) : x.Same (s.raise c) (t.raise c) := by
  have htold : x.Same (s.emit (.diag c.code (s.info c))) (t.emit (.diag c.code (t.info c))) :=
    same_of (fun s => s.emit (.diag c.code (s.info c))) (fun s => by rw [info_erase]; cases x <;> rfl) h
  cases hc : causeClass c with
  | endsCommand => rw [raise_endsCommand hc, raise_endsCommand hc]; exact same_endCommand htold
  | continues => rw [raise_continues hc, raise_continues hc]; exact htold
  | fatal =>
    rw [raise_fatal hc, raise_fatal hc]
    exact same_of (fun s => { s with mode := .failed, work := Work.idle }) (fun _ => by cases x <;> rfl) htold

/-! ### Validator -/

theorem same_valSize (h : x.Same s t) : x.Same (valSize s) (valSize t) :=
  same_ite (fun s => s.work.pktLen.toNat ≠ packetBytes) (fun _ => by cases x <;> rfl) h (same_raise h _) h

theorem same_valHdr (h : x.Same s t) : x.Same (valHdr s) (valHdr t) :=
  have hread : x.Same { s with work := { s.work with hdr := s.work.header s.work.k } }
      { t with work := { t.work with hdr := t.work.header t.work.k } } :=
    same_of (fun s => { s with work := { s.work with hdr := s.work.header s.work.k } }) (fun _ => by cases x <;> rfl) h
  same_ite (fun s => s.work.header s.work.k ≠ s.cfg.bankUpper ∧ s.work.header s.work.k ≠ s.cfg.bankLower)
    (fun _ => by cases x <;> rfl) h (same_raise hread _) hread

theorem same_valAlt (h : x.Same s t) : x.Same (valAlt s) (valAlt t) :=
  same_ite (fun s => 0 < s.work.k.val ∧ s.work.hdr = s.work.hdrPrev) (fun _ => by cases x <;> rfl) h (same_raise h _)
    (same_of (fun s => { s with work := { s.work with hdrPrev := s.work.hdr } }) (fun _ => by cases x <;> rfl) h)

theorem same_checkBlock (h : x.Same s t) (k : Fin 12) : x.Same (checkBlock s k) (checkBlock t k) :=
  have hhdr := same_valHdr (same_seek h .valHdr k 0 0)
  same_ite_busy hhdr (same_valAlt (same_seek hhdr .valAlt k 0 0)) hhdr

theorem same_validate (h : x.Same s t) : x.Same (validate s) (validate t) :=
  same_foldl blocks (fun _ _ k h => same_ite_busy h (same_checkBlock h k) h) (same_valSize (same_seek h .valSize 0 0 0))

/-! ### Decoder -/

theorem same_tsld (h : x.Same s t) : x.Same (tsld s) (tsld t) := same_of tsld (fun _ => by cases x <;> rfl) h

theorem same_rotld (h : x.Same s t) : x.Same (rotld s) (rotld t) :=
  same_of rotld (fun s => by rw [rotld_spec, rotld_spec]; cases x <;> rfl) h

theorem same_delta (h : x.Same s t) : x.Same (delta s) (delta t) := same_of delta (fun _ => by cases x <;> rfl) h

theorem same_firbase (h : x.Same s t) : x.Same (firbase s) (firbase t) := same_of firbase (fun _ => by cases x <;> rfl) h

theorem same_fdelta (h : x.Same s t) : x.Same (fdelta s) (fdelta t) := same_of fdelta (fun _ => by cases x <;> rfl) h

theorem same_chdec (h : x.Same s t) : x.Same (chdec s) (chdec t) := same_of chdec (fun _ => by cases x <;> rfl) h

theorem same_interp (h : x.Same s t) : x.Same (interp s) (interp t) := same_of interp (fun _ => by cases x <;> rfl) h

theorem same_decodeBases (h : x.Same s t) : x.Same (decodeBases s) (decodeBases t) := by
  unfold decodeBases; dsimp only
  refine same_foldl firings (fun _ _ kj h => same_fdelta (same_seek h .fdelta kj.1 kj.2 0)) ?_
  refine same_foldl blocks (fun _ _ k h => same_firbase (same_seek h .firbase k 0 0)) ?_
  refine same_foldl blocks (fun _ _ k h => same_delta (same_seek h .delta k 0 0)) ?_
  refine same_foldl blocks (fun _ _ k h => same_rotld (same_seek h .rotld k 0 0)) ?_
  exact same_tsld (same_seek h .tsld 0 0 0)

theorem same_decodeReading (h : x.Same s t) (k : Fin 12) (j : Fin 2) (c : Fin 16) :
    x.Same (decodeReading s k j c) (decodeReading t k j c) :=
  same_interp (same_seek (same_chdec (same_seek h .chdec k j c)) .interp k j c)

theorem same_decodePacket (h : x.Same s t) : x.Same (decodePacket s) (decodePacket t) := by
  unfold decodePacket
  refine same_foldl firings (fun s t kj h => ?_) (same_decodeBases h)
  exact same_foldl channels (fun _ _ c h => same_decodeReading h kj.1 kj.2 c) h

/-! ### Transformer -/

theorem same_fltRange (h : x.Same s t) : x.Same (fltRange s) (fltRange t) := same_of fltRange (fun _ => by cases x <;> rfl) h

theorem same_fltAz (h : x.Same s t) : x.Same (fltAz s) (fltAz t) := same_of fltAz (fun _ => by cases x <;> rfl) h

theorem same_azidx (h : x.Same s t) : x.Same (azidx s) (azidx t) := same_of azidx (fun _ => by cases x <;> rfl) h

theorem same_xform (h : x.Same s t) : x.Same (xform s) (xform t) := same_of xform (fun _ => by cases x <;> rfl) h

theorem same_tstamp (h : x.Same s t) : x.Same (tstamp s) (tstamp t) := same_of tstamp (fun _ => by cases x <;> rfl) h

/-! ### Accumulator and assembler -/

theorem same_boundary (h : x.Same s t) : x.Same (boundary s) (boundary t) :=
  same_of boundary (fun s => by rw [boundary_spec, boundary_spec]; cases x <;> rfl) h

theorem same_emitBatch (h : x.Same s t) : x.Same (emitBatch s) (emitBatch t) :=
  same_of emitBatch (fun _ => by cases x <;> rfl) h

theorem same_emitScan (h : x.Same s t) : x.Same (emitScan s) (emitScan t) :=
  same_of emitScan (fun s => by rw [emitScan_spec, emitScan_spec]; cases x <;> rfl) h

theorem same_emitSweep (h : x.Same s t) : x.Same (emitSweep s) (emitSweep t) :=
  same_of emitSweep (fun s => by rw [emitSweep_spec, emitSweep_spec]; cases x <;> rfl) h

theorem same_finalize (h : x.Same s t) : x.Same (finalize s) (finalize t) :=
  same_ite (fun s => s.firstSweep = true) (fun _ => by cases x <;> rfl) h
    (same_of (fun s => { s with firstSweep := false }) (fun _ => by cases x <;> rfl) h) (same_emitSweep h)

theorem same_newsweep (h : x.Same s t) : x.Same (newsweep s) (newsweep t) := same_of newsweep (fun _ => by cases x <;> rfl) h

theorem same_recordAz (h : x.Same s t) : x.Same (recordAz s) (recordAz t) := same_of recordAz (fun _ => by cases x <;> rfl) h

theorem same_append (h : x.Same s t) : x.Same (append s) (append t) := by
  rw [append_spec, append_spec]
  refine same_ite (fun s => s.hasRoom = true) (fun _ => by cases x <;> rfl) h ?_
    (same_ite (fun s => s.sweepOvf = true) (fun _ => by cases x <;> rfl) h h ?_)
  · exact same_of (fun s => { s with sweep := s.sweep ++ [s.work.entry] }) (fun _ => by cases x <;> rfl) h
  · exact same_of (fun s => { s with sweepOvf := true, out := s.out ++ [.diag 9 0] }) (fun _ => by cases x <;> rfl) h

theorem same_processReading (h : x.Same s t) (k : Fin 12) (j : Fin 2) (c : Fin 16) :
    x.Same (processReading s k j c) (processReading t k j c) := by
  have hfilters := same_fltAz (same_seek (same_fltRange (same_seek h .fltRange k j c)) .fltAz k j c)
  have hxform := same_xform (same_seek (same_azidx (same_seek hfilters .azidx k j c)) .xform k j c)
  have hentry := same_append (same_seek (same_tstamp (same_seek hxform .tstamp k j c)) .append k j c)
  exact same_ite (fun s => s.work.valid = true) (fun _ => by cases x <;> rfl) hfilters hentry hfilters

theorem same_openFiring (h : x.Same s t) (k : Fin 12) (j : Fin 2) : x.Same (openFiring s k j) (openFiring t k j) := by
  have hboundary := same_boundary (same_seek h .boundary k j 0)
  have hnew := same_newsweep (same_seek (same_finalize (same_seek hboundary .finalize k j 0)) .newsweep k j 0)
  exact same_recordAz
    (same_ite (fun s => s.work.boundary = true) (fun _ => by cases x <;> rfl) hboundary hnew hboundary)

theorem same_processFiring (h : x.Same s t) (k : Fin 12) (j : Fin 2) :
    x.Same (processFiring s k j) (processFiring t k j) := by
  unfold processFiring
  exact same_foldl channels (fun _ _ c h => same_processReading h k j c) (same_openFiring h k j)

theorem same_processPacket (h : x.Same s t) : x.Same (processPacket s) (processPacket t) := by
  unfold processPacket accumulate
  refine same_endCommand (same_foldl firings (fun s t kj h => ?_) (same_decodePacket h))
  exact same_processFiring h kj.1 kj.2

/-! ### Rows -/

theorem same_phaseOp (h : x.Same s t) (p : Phase) : x.Same (phaseOp p s) (phaseOp p t) := by
  cases p with
  | idle => exact h
  | valSize => exact same_valSize (same_enter h _)
  | valHdr => exact same_valHdr (same_enter h _)
  | valAlt => exact same_valAlt (same_enter h _)
  | tsld => exact same_tsld (same_enter h _)
  | rotld => exact same_rotld (same_enter h _)
  | delta => exact same_delta (same_enter h _)
  | firbase => exact same_firbase (same_enter h _)
  | fdelta => exact same_fdelta (same_enter h _)
  | chdec => exact same_chdec (same_enter h _)
  | interp => exact same_interp (same_enter h _)
  | boundary => exact same_boundary (same_enter h _)
  | finalize => exact same_finalize (same_enter h _)
  | emitBatch => exact same_emitBatch (same_enter h _)
  | emitScan => exact same_emitScan (same_enter h _)
  | newsweep => exact same_newsweep (same_enter h _)
  | fltRange => exact same_fltRange (same_enter h _)
  | fltAz => exact same_fltAz (same_enter h _)
  | azidx => exact same_azidx (same_enter h _)
  | xform => exact same_xform (same_enter h _)
  | tstamp => exact same_tstamp (same_enter h _)
  | append => exact same_append (same_enter h _)

theorem same_writeConfig (h : x.Same s t) (a : BitVec 12) (d : BitVec 32) :
    x.Same (writeConfig s a d) (writeConfig t a d) := by
  refine same_of (fun s => writeConfig s a d) (fun s => ?_) h
  unfold writeConfig
  split <;> cases x <;> rfl

theorem same_command {f : State → State} (hf : Command f) (h : x.Same s t) : x.Same (f s) (f t) := by
  have hmode (m : Mode) (s : State) : ((x.erase s).mode ≠ m) = (s.mode ≠ m) := by cases x <;> rfl
  cases hf with
  | cfgwr word a d =>
    have hu := same_accept h word
    exact same_ite (fun s => s.mode ≠ .unconfigured) (hmode _) hu (same_raise hu _)
      (same_ite (fun _ => 8 < a.toNat) (fun _ => rfl) hu (same_raise hu _) (same_endCommand (same_writeConfig hu a d)))
  | init word =>
    have hu := same_accept h word
    exact same_ite (fun s => s.mode ≠ .unconfigured) (hmode _) hu (same_raise hu _)
      (same_ite (fun s => s.configErrors ≠ 0) (fun _ => by cases x <;> rfl) hu (same_raise hu _)
        (same_of (fun s => ({ s with mode := .run } : State).endCommand) (fun _ => by cases x <;> rfl) hu))
  | recv word len payload =>
    have hu := same_accept h word
    have hvalidated := same_validate (same_loadPacket hu len payload)
    exact same_ite (fun s => s.mode ≠ .run) (hmode _) hu (same_raise hu _)
      (same_ite_busy hvalidated (same_processPacket hvalidated) hvalidated)
  | setch word a =>
    exact same_of (fun s => setChannel (s.accept word) a)
      (fun s => by rw [setChannel_spec, setChannel_spec]; cases x <;> rfl) h
  | reserved word => exact same_raise (same_accept h word) _

theorem same_decodeBlockFields (h : x.Same s t) (k : Fin 12) : x.Same (decodeBlockFields s k) (decodeBlockFields t k) :=
  same_foldl _ (fun _ _ j h => same_foldl channels (fun _ _ c h => same_chdec (same_seek h .chdec k j c)) h)
    (same_rotld (same_seek h .rotld k 0 0))

/-- Two states put back to where two others stand. -/
theorem same_resume {u v : State} (h : x.Same s t) (hstood : x.Same u v) : x.Same (s.resume u.work) (t.resume v.work) := by
  unfold State.resume
  rw [same_phase hstood, same_k hstood, same_j hstood, same_c hstood]
  exact same_seek h _ _ _ _

theorem same_placeBlock (h : x.Same s t) {hdr hdr' : BitVec 16} (hhdr : hdr = hdr') (rot : BitVec 16)
    (rd : Vector Reading 32) : x.Same (placeBlock s hdr rot rd) (placeBlock t hdr' rot rd) := by
  subst hhdr
  have hplaced := same_of (fun s => { s with work := { s.work with
    pkt := Memory.writeAll s.work.pkt (100 * s.work.k.val) (blockBytes hdr rot rd) } }) (fun _ => by cases x <;> rfl) h
  unfold placeBlock; dsimp only
  rw [same_k h] at hplaced ⊢
  have hchecked := same_checkBlock hplaced t.work.k
  exact same_ite_busy hchecked (same_resume (same_decodeBlockFields hchecked _) h) hchecked

theorem same_placeTrailer (h : x.Same s t) (ts : BitVec 32) (factory : BitVec 16) :
    x.Same (placeTrailer s ts factory) (placeTrailer t ts factory) := by
  have hplaced := same_of (fun s => { s with work := { s.work with
    pkt := Memory.writeAll s.work.pkt 1200 (trailerBytes ts factory) } }) (fun _ => by cases x <;> rfl) h
  exact same_resume (same_tsld (same_enter hplaced .tsld)) h

theorem same_row {f : State → State} (hf : Row f) (h : x.Same s t) : x.Same (f s) (f t) := by
  cases hf with
  | command hf => exact same_command hf h
  | blkUpper rot rd => exact same_placeBlock h (by rw [same_cfg h]) rot rd
  | blkLower rot rd => exact same_placeBlock h (by rw [same_cfg h]) rot rd
  | pktTrailer ts factory => exact same_placeTrailer h ts factory
  | phase p => exact same_phaseOp h p
  | cause c => exact same_raise h c

/-! ### The sequencer -/

theorem same_loopBlocks (h : x.Same s t) (again after : Phase) :
    x.Same (s.loopBlocks again after) (t.loopBlocks again after) := by
  unfold State.loopBlocks
  rw [same_k h]
  cases nextBlock t.work.k <;> exact same_seek h _ _ _ _

theorem same_startChannels (h : x.Same s t) : x.Same s.startChannels t.startChannels :=
  same_of State.startChannels (fun _ => by cases x <;> rfl) h

/-- The next channel at the same firing, or what follows the last one. -/
theorem same_nextReading (h : x.Same s t) : x.Same s.nextReading t.nextReading := by
  unfold State.nextReading
  rw [same_k h, same_j h, same_c h]
  cases nextChannel t.work.c with
  | some c => exact same_seek h _ _ _ _
  | none =>
    cases nextFiring t.work.k t.work.j with
    | some kj => exact same_seek h _ _ _ _
    | none => exact same_endCommand h

theorem same_advance (h : x.Same s t) (p : Phase) : x.Same (s.advance p) (t.advance p) := by
  refine same_ite_busy h ?_ h
  cases p with
  | idle => exact h
  | valSize | tsld => exact same_seek h _ _ _ _
  | valHdr => exact same_of (fun s => s.seek .valAlt s.work.k 0 0) (fun _ => by cases x <;> rfl) h
  | valAlt | rotld | delta | firbase => exact same_loopBlocks h _ _
  | fdelta =>
    dsimp only
    rw [same_k h, same_j h]
    cases nextFiring t.work.k t.work.j <;> exact same_seek h _ _ _ _
  | interp =>
    dsimp only
    rw [same_k h, same_j h, same_c h]
    cases nextChannel t.work.c with
    | some c => exact same_seek h _ _ _ _
    | none => cases nextFiring t.work.k t.work.j <;> exact same_seek h _ _ _ _
  | boundary =>
    exact same_ite (fun s => s.work.boundary = true) (fun _ => by cases x <;> rfl) h (same_enter h _) (same_startChannels h)
  | emitBatch =>
    exact same_ite (fun s => s.scanEn = true) (fun _ => by cases x <;> rfl) h (same_enter h _) (same_enter h _)
  | newsweep => exact same_startChannels h
  | fltAz =>
    exact same_ite (fun s => s.work.valid = true) (fun _ => by cases x <;> rfl) h (same_enter h _) (same_nextReading h)
  | append => exact same_nextReading h
  | chdec | finalize | emitScan | fltRange | azidx | xform | tstamp => exact same_enter h _

/-! ### Steps -/

/-- Two states that differ in the element alone take the same kind of step, to two states that differ in it alone. -/
theorem same_step {u : State} (h : x.Same s t) (hstep : step s = .next u) : ∃ v, step t = .next v ∧ x.Same u v := by
  have hparams : paramsOk t.cfg = true := by rw [← same_cfg h]; exact paramsOk_of_step hstep
  suffices ∃ v, StepCase t v ∧ x.Same u v by
    obtain ⟨v, hv, hsame⟩ := this
    exact ⟨v, step_of_stepCase hparams hv, hsame⟩
  have hinbox (rest : List Request) : x.Same { s with inbox := rest } { t with inbox := rest } :=
    same_of (fun s => { s with inbox := rest }) (fun _ => by cases x <;> rfl) h
  cases stepCase_of_step hstep with
  | operation busy result =>
    rw [same_phase h] at busy result
    exact ⟨_, .operation busy rfl, by rw [result]; exact same_advance (same_phaseOp h _) _⟩
  | waiting idle inbox result =>
    rw [same_phase h] at idle
    rw [same_inbox_eq h] at inbox
    exact ⟨t, .waiting idle inbox rfl, by rw [result]; exact h⟩
  | reset rest idle inbox result =>
    rw [same_phase h] at idle
    rw [same_inbox_eq h] at inbox
    exact ⟨_, .reset rest idle inbox rfl, by
      rw [result]; exact same_of State.resetPin (fun _ => by cases x <;> rfl) (hinbox rest)⟩
  | request rest item i idle inbox decoded result =>
    rw [same_phase h] at idle
    rw [same_inbox_eq h] at inbox
    rw [same_cfg h] at decoded
    obtain ⟨f, hf, he⟩ := exec_row i
    rw [he] at result
    cases result
    exact ⟨_, .request rest item i idle inbox decoded (he _), same_row hf (hinbox rest)⟩

end

/-- Settles O58: the perturbed state steps beside the state, and what the two results differ in is put back. -/
theorem distMaxChangesNoOutput : Obligations.DistMaxChangesNoOutput := by
  intro s t v hstep
  refine ⟨?_, fun f => ?_⟩
  · have hstart : Unread.distMax.Same s { s with distMax := v } := rfl
    obtain ⟨t', hstep', hsame⟩ := same_step hstart hstep
    exact ⟨t', hstep', (same_out hsame).symm,
      (congrArg (fun u : State => { u with distMax := t.distMax }) hsame).symm⟩
  · have hstart : Unread.factory.Same s { s with work := { s.work with factory := f } } := rfl
    obtain ⟨t', hstep', hsame⟩ := same_step hstart hstep
    exact ⟨t', hstep', (same_out hsame).symm,
      (congrArg (fun u : State => { u with work := { u.work with factory := t.work.factory } }) hsame).symm⟩

end Sys2Proof.Machine
end

section
/-! PROOFS for `10_state.md`: the sequencer, stepped one operation at a time, performs RECV (R42, R113, R133). RECV is a nest of loops;
each loop of the model is matched by the sequencer's own counting (`reaches_loop`), and its body by the few steps it is made of. -/

namespace Sys2Proof.Machine

/-! ### Runs of steps -/

/-- Some number of steps leads from one state to the other. -/
def Reaches : State → State → Prop := Relation.ReflTransGen fun s t => step s = .next t

theorem Reaches.refl (s : State) : Reaches s s := Relation.ReflTransGen.refl

theorem Reaches.trans {s t u : State} (h : Reaches s t) (h' : Reaches t u) : Reaches s u := Relation.ReflTransGen.trans h h'

theorem core_run_succ_of_step {s t : State} (h : step s = .next t) (n : Nat) :
    Sys2Proof.core.run (n + 1) s = Sys2Proof.core.run n t := by
  simp only [Host.Core.run, Host.Check.core_step, h]

theorem core_run_of_reaches {s t : State} (h : Reaches s t) : ∃ n, Sys2Proof.core.run n s = .next t := by
  induction h using Relation.ReflTransGen.head_induction_on with
  | refl => exact ⟨0, rfl⟩
  | head hstep _ ih =>
    obtain ⟨n, hn⟩ := ih
    exact ⟨n + 1, (core_run_succ_of_step hstep n).trans hn⟩

theorem paramsOk_of_grows {s t : State} (h : Grows s t) (hp : paramsOk s.cfg = true) : paramsOk t.cfg = true := by
  rw [h.setup.cfg]; exact hp

/-- One step from a phase at given counters. -/
theorem reaches_seek {s : State} (hp : paramsOk s.cfg = true) {p : Phase} (hphase : p ≠ .idle) (k : Fin 12) (j : Fin 2)
    (c : Fin 16) : Reaches (s.seek p k j c) ((phaseOp p (s.seek p k j c)).advance p) :=
  Relation.ReflTransGen.single (step_of_busy (s := s.seek p k j c) hp hphase)

/-! ### Counting -/

/-- The list `l` is what `next` counts through after `a`. -/
def countsThrough {α : Type} [DecidableEq α] (next : α → Option α) : α → List α → Bool
  | a, [] => next a == none
  | a, b :: l => next a == some b && countsThrough next b l

theorem blocks_counted : blocks = 0 :: blocks.tail ∧ countsThrough nextBlock 0 blocks.tail = true := by decide

theorem channels_counted : channels = 0 :: channels.tail ∧ countsThrough nextChannel 0 channels.tail = true := by decide

theorem firings_counted : firings = (0, 0) :: firings.tail ∧
    countsThrough (fun kj => nextFiring kj.1 kj.2) (0, 0) firings.tail = true := by decide

/-- A loop of the model and the sequencer's counting: where the steps from one place of the loop lead through the body to the next
place, or out of the loop after the last one, they lead from the first place through the whole loop. -/
theorem reaches_loop {α : Type} [DecidableEq α] {next : α → Option α} {f place : State → α → State} {after : State → State}
    (hgrows : ∀ s a, Grows s (f s a))
    (hbody : ∀ s a, paramsOk s.cfg = true → Reaches (place s a) ((next a).elim (after (f s a)) (place (f s a))))
    {l : List α} {a : α} (hcount : countsThrough next a l = true) {s : State} (hp : paramsOk s.cfg = true) :
    Reaches (place s a) (after ((a :: l).foldl f s)) := by
  induction l generalizing a s with
  | nil =>
    have hnext : next a = none := by simpa [countsThrough] using hcount
    have h := hbody s a hp
    rw [hnext] at h
    exact h
  | cons b l ih =>
    obtain ⟨hnext, hrest⟩ : next a = some b ∧ countsThrough next b l = true := by
      simpa [countsThrough] using hcount
    have h := hbody s a hp
    rw [hnext] at h
    exact h.trans (ih hrest (paramsOk_of_grows (hgrows s a) hp))

/-! ### Where the sequencer goes -/

theorem loopBlocks_eq (u : State) (again after : Phase) : u.loopBlocks again after =
    (nextBlock u.work.k).elim (u.seek after 0 0 0) fun k => u.seek again k 0 0 := by
  unfold State.loopBlocks
  cases nextBlock u.work.k <;> rfl

theorem advance_fdelta {u : State} (h : u.busy = true) : u.advance .fdelta =
    (nextFiring u.work.k u.work.j).elim (u.seek .chdec 0 0 0) fun kj => u.seek .fdelta kj.1 kj.2 0 := by
  unfold State.advance
  rw [if_pos h]
  cases nextFiring u.work.k u.work.j <;> rfl

theorem advance_interp {u : State} (h : u.busy = true) : u.advance .interp =
    (nextChannel u.work.c).elim
      ((nextFiring u.work.k u.work.j).elim (u.seek .boundary 0 0 0) fun kj => u.seek .chdec kj.1 kj.2 0)
      fun c => u.seek .chdec u.work.k u.work.j c := by
  unfold State.advance
  rw [if_pos h]
  cases nextChannel u.work.c with
  | some c => rfl
  | none => cases nextFiring u.work.k u.work.j <;> rfl

/-! ### Validator -/

theorem valHdr_work_k (s : State) (h : (valHdr s).busy = true) : (valHdr s).work.k = s.work.k := by
  rw [valHdr_spec] at h ⊢
  by_cases hheader : s.work.header s.work.k ≠ s.cfg.bankUpper ∧ s.work.header s.work.k ≠ s.cfg.bankLower
  · rw [if_pos hheader] at h; cases h
  · rw [if_neg hheader]

theorem checkBlock_work_k {s : State} {k : Fin 12} (h : (checkBlock s k).busy = true) : (checkBlock s k).work.k = k := by
  rw [checkBlock_spec] at h ⊢
  by_cases hheader : s.work.header k ≠ s.cfg.bankUpper ∧ s.work.header k ≠ s.cfg.bankLower
  · rw [if_pos hheader] at h; cases h
  · rw [if_neg hheader] at h ⊢
    by_cases hrepeated : 0 < k.val ∧ s.work.header k = s.work.hdrPrev
    · rw [if_pos hrepeated] at h; cases h
    · rw [if_neg hrepeated]

theorem advance_of_not_busy {u : State} (h : u.busy = false) (p : Phase) : u.advance p = u := by
  unfold State.advance; rw [h]; rfl

/-- R150: the two checks of one block, the second step taken only when the first has passed. -/
theorem reaches_checkBlock {s : State} (hp : paramsOk s.cfg = true) (k : Fin 12) :
    Reaches (s.seek .valHdr k 0 0) ((checkBlock s k).advance .valAlt) := by
  have hhdr : Reaches (s.seek .valHdr k 0 0) ((valHdr (s.seek .valHdr k 0 0)).advance .valHdr) :=
    reaches_seek hp Phase.noConfusion k 0 0
  have hready := paramsOk_of_grows ((grows_seek s .valHdr k 0 0).trans (grows_valHdr _)) hp
  have hcheck : checkBlock s k = if (valHdr (s.seek .valHdr k 0 0)).busy
      then valAlt ((valHdr (s.seek .valHdr k 0 0)).seek .valAlt k 0 0) else valHdr (s.seek .valHdr k 0 0) := rfl
  rw [hcheck]
  cases hbusy : (valHdr (s.seek .valHdr k 0 0)).busy with
  | false =>
    rw [advance_of_not_busy hbusy] at hhdr
    simpa [advance_of_not_busy hbusy] using hhdr
  | true =>
    have hmove : (valHdr (s.seek .valHdr k 0 0)).advance .valHdr = (valHdr (s.seek .valHdr k 0 0)).seek .valAlt k 0 0 := by
      rw [State.advance, if_pos hbusy]
      exact congrArg (fun k' => State.seek _ .valAlt k' 0 0) (valHdr_work_k _ hbusy)
    rw [hmove] at hhdr
    exact hhdr.trans (reaches_seek hready Phase.noConfusion k 0 0)

/-- Where the validation of block k begins, if no block before it has failed. -/
def atBlockCheck (s : State) (k : Fin 12) : State := if s.busy then s.seek .valHdr k 0 0 else s

/-- What the sequencer does with a validated packet: it goes on to the decoder unless the command is over. -/
def afterValidation (s : State) : State := if s.busy then s.seek .tsld 0 0 0 else s

theorem reaches_validate {s : State} (hp : paramsOk s.cfg = true) :
    Reaches (s.seek .valSize 0 0 0) (afterValidation (validate s)) := by
  have hsize : Reaches (s.seek .valSize 0 0 0) (atBlockCheck (valSize (s.seek .valSize 0 0 0)) 0) :=
    reaches_seek hp Phase.noConfusion 0 0 0
  refine hsize.trans ?_
  unfold validate
  rw [blocks_counted.1]
  refine reaches_loop (place := atBlockCheck) (fun s k => grows_ite (grows_checkBlock s k) (Grows.refl s)) (fun s k hp => ?_)
    blocks_counted.2 (paramsOk_of_grows ((grows_seek s .valSize 0 0 0).trans (grows_valSize _)) hp)
  have hstay {t : State} (h : t.busy = false) : (nextBlock k).elim (afterValidation t) (atBlockCheck t) = t := by
    cases nextBlock k <;> simp [afterValidation, atBlockCheck, h]
  cases hbusy : s.busy with
  | false =>
    simp only [Bool.false_eq_true, if_false]
    rw [hstay hbusy, atBlockCheck, hbusy]
    exact Reaches.refl s
  | true =>
    rw [atBlockCheck, hbusy]
    simp only [if_true]
    refine (reaches_checkBlock hp k).trans ?_
    cases hchecked : (checkBlock s k).busy with
    | false => rw [hstay hchecked, advance_of_not_busy hchecked]; exact Reaches.refl _
    | true =>
      have hmove : (checkBlock s k).advance .valAlt = (checkBlock s k).loopBlocks .valHdr .tsld := if_pos hchecked
      rw [hmove, loopBlocks_eq, checkBlock_work_k hchecked]
      cases nextBlock k with
      | none => rw [Option.elim_none, Option.elim_none, afterValidation, if_pos hchecked]; exact Reaches.refl _
      | some k' => rw [Option.elim_some, Option.elim_some, atBlockCheck, if_pos hchecked]; exact Reaches.refl _

/-! ### Decoder -/

theorem rotld_work_place (s : State) : (rotld s).work.phase = s.work.phase ∧ (rotld s).work.k = s.work.k := by
  rw [rotld_spec]; exact ⟨rfl, rfl⟩

/-- A loop over the blocks with one operation in its body, from phase p to phase q. -/
theorem reaches_blockLoop {p q : Phase} {op : State → State} (hphase : p ≠ .idle)
    (hop : ∀ (s : State) k, phaseOp p (s.seek p k 0 0) = op (s.seek p k 0 0)) (hgrows : ∀ s, Grows s (op s))
    (hplace : ∀ s, (op s).work.phase = s.work.phase ∧ (op s).work.k = s.work.k)
    (hmove : ∀ u : State, u.busy = true → u.advance p = u.loopBlocks p q) {s : State} (hp : paramsOk s.cfg = true) :
    Reaches (s.seek p 0 0 0) ((blocks.foldl (fun s k => op (s.seek p k 0 0)) s).seek q 0 0 0) := by
  rw [blocks_counted.1]
  refine reaches_loop (place := fun (s : State) k => s.seek p k 0 0) (after := fun s => s.seek q 0 0 0)
    (fun s k => (grows_seek s p k 0 0).trans (hgrows _)) (fun s k hp => ?_) blocks_counted.2 hp
  obtain ⟨hstays, hk⟩ := hplace (s.seek p k 0 0)
  have hbusy : (op (s.seek p k 0 0)).busy = true := busy_iff.2 (by rw [hstays]; exact hphase)
  have hstep := reaches_seek hp hphase k 0 0
  rw [hop, hmove _ hbusy, loopBlocks_eq, hk] at hstep
  exact hstep

theorem reaches_fdeltas {s : State} (hp : paramsOk s.cfg = true) : Reaches (s.seek .fdelta 0 0 0)
    ((firings.foldl (fun s kj => fdelta (s.seek .fdelta kj.1 kj.2 0)) s).seek .chdec 0 0 0) := by
  rw [firings_counted.1]
  refine reaches_loop (place := fun (s : State) kj => s.seek .fdelta kj.1 kj.2 0) (after := fun s => s.seek .chdec 0 0 0)
    (fun s kj => (grows_seek s .fdelta kj.1 kj.2 0).trans (grows_fdelta _)) (fun s kj hp => ?_) firings_counted.2 hp
  have hstep := reaches_seek hp (p := .fdelta) Phase.noConfusion kj.1 kj.2 0
  rw [advance_fdelta rfl] at hstep
  exact hstep

/-- R160, first half. -/
theorem reaches_decodeBases {s : State} (hp : paramsOk s.cfg = true) :
    Reaches (s.seek .tsld 0 0 0) ((decodeBases s).seek .chdec 0 0 0) := by
  unfold decodeBases; dsimp only
  have htsld : Reaches (s.seek .tsld 0 0 0) ((tsld (s.seek .tsld 0 0 0)).seek .rotld 0 0 0) :=
    reaches_seek hp Phase.noConfusion 0 0 0
  refine htsld.trans ?_
  have hp0 := paramsOk_of_grows ((grows_seek s .tsld 0 0 0).trans (grows_tsld _)) hp
  generalize tsld (s.seek .tsld 0 0 0) = s0 at hp0 ⊢
  refine (reaches_blockLoop (p := .rotld) (q := .delta) (op := rotld) Phase.noConfusion (fun _ _ => rfl) grows_rotld
    rotld_work_place (fun _ h => if_pos h) hp0).trans ?_
  have hp1 := paramsOk_of_grows (grows_foldl blocks _ (fun s k => (grows_seek s .rotld k 0 0).trans (grows_rotld _)) s0) hp0
  generalize blocks.foldl (fun s k => rotld (s.seek .rotld k 0 0)) s0 = s1 at hp1 ⊢
  refine (reaches_blockLoop (p := .delta) (q := .firbase) (op := delta) Phase.noConfusion (fun _ _ => rfl) grows_delta
    (fun _ => ⟨rfl, rfl⟩) (fun _ h => if_pos h) hp1).trans ?_
  have hp2 := paramsOk_of_grows (grows_foldl blocks _ (fun s k => (grows_seek s .delta k 0 0).trans (grows_delta _)) s1) hp1
  generalize blocks.foldl (fun s k => delta (s.seek .delta k 0 0)) s1 = s2 at hp2 ⊢
  refine (reaches_blockLoop (p := .firbase) (q := .fdelta) (op := firbase) Phase.noConfusion (fun _ _ => rfl) grows_firbase
    (fun _ => ⟨rfl, rfl⟩) (fun _ h => if_pos h) hp2).trans ?_
  exact reaches_fdeltas (paramsOk_of_grows
    (grows_foldl blocks _ (fun s k => (grows_seek s .firbase k 0 0).trans (grows_firbase _)) s2) hp2)

/-- R160, the two operations of one reading, and on to the next reading or the accumulator. -/
theorem reaches_decodeReading {s : State} (hp : paramsOk s.cfg = true) (k : Fin 12) (j : Fin 2) (c : Fin 16) :
    Reaches (s.seek .chdec k j c) ((nextChannel c).elim
      ((nextFiring k j).elim ((decodeReading s k j c).seek .boundary 0 0 0)
        fun kj => (decodeReading s k j c).seek .chdec kj.1 kj.2 0)
      fun c' => (decodeReading s k j c).seek .chdec k j c') := by
  have hchdec : Reaches (s.seek .chdec k j c) ((chdec (s.seek .chdec k j c)).seek .interp k j c) :=
    reaches_seek hp Phase.noConfusion k j c
  have hinterp := reaches_seek (paramsOk_of_grows ((grows_seek s .chdec k j c).trans (grows_chdec _)) hp)
    (p := .interp) Phase.noConfusion k j c
  rw [advance_interp rfl] at hinterp
  exact hchdec.trans hinterp

theorem reaches_decodePacket {s : State} (hp : paramsOk s.cfg = true) :
    Reaches (s.seek .tsld 0 0 0) ((decodePacket s).seek .boundary 0 0 0) := by
  refine (reaches_decodeBases hp).trans ?_
  unfold decodePacket
  rw [firings_counted.1]
  refine reaches_loop (place := fun (s : State) kj => s.seek .chdec kj.1 kj.2 0) (after := fun s => s.seek .boundary 0 0 0)
    (fun s kj => ?_) (fun s kj hp => ?_) firings_counted.2 (paramsOk_of_grows (grows_decodeBases s) hp)
  · exact grows_foldl channels _ (fun s c => grows_decodeReading s kj.1 kj.2 c) s
  · rw [channels_counted.1]
    exact reaches_loop (place := fun (s : State) c => s.seek .chdec kj.1 kj.2 c)
      (after := fun s => (nextFiring kj.1 kj.2).elim (s.seek .boundary 0 0 0) fun kj => s.seek .chdec kj.1 kj.2 0)
      (fun s c => grows_decodeReading s kj.1 kj.2 c) (fun s c hp => reaches_decodeReading hp kj.1 kj.2 c)
      channels_counted.2 hp

/-! ### Transformer and accumulator -/

/-- R133: where the sequencer goes from the reading (k, j, c) when it is done. -/
def afterReading (u : State) (k : Fin 12) (j : Fin 2) (c : Fin 16) : State :=
  (nextChannel c).elim ((nextFiring k j).elim u.endCommand fun kj => u.seek .boundary kj.1 kj.2 0)
    fun c' => u.seek .fltRange k j c'

theorem nextReading_eq_afterReading (u : State) : u.nextReading = afterReading u u.work.k u.work.j u.work.c := by
  unfold State.nextReading afterReading
  cases nextChannel u.work.c with
  | some c => rfl
  | none => cases nextFiring u.work.k u.work.j <;> rfl

theorem append_work (s : State) : (append s).work = s.work := by
  rw [append_spec]
  split
  · rfl
  · split <;> rfl

/-- R183 to R186, R204: the operations of a reading that survived the filters. -/
theorem reaches_transform {s : State} (hp : paramsOk s.cfg = true) (k : Fin 12) (j : Fin 2) (c : Fin 16) :
    Reaches (s.seek .azidx k j c) (afterReading
      (append ((tstamp ((xform ((azidx (s.seek .azidx k j c)).seek .xform k j c)).seek .tstamp k j c)).seek .append k j c))
      k j c) := by
  have hazidx : Reaches (s.seek .azidx k j c) ((azidx (s.seek .azidx k j c)).seek .xform k j c) :=
    reaches_seek hp Phase.noConfusion k j c
  refine hazidx.trans ?_
  have hp1 : paramsOk (azidx (s.seek .azidx k j c)).cfg = true := hp
  generalize azidx (s.seek .azidx k j c) = s1 at hp1 ⊢
  have hxform : Reaches (s1.seek .xform k j c) ((xform (s1.seek .xform k j c)).seek .tstamp k j c) :=
    reaches_seek hp1 Phase.noConfusion k j c
  refine hxform.trans ?_
  have hp2 : paramsOk (xform (s1.seek .xform k j c)).cfg = true := hp1
  generalize xform (s1.seek .xform k j c) = s2 at hp2 ⊢
  have htstamp : Reaches (s2.seek .tstamp k j c) ((tstamp (s2.seek .tstamp k j c)).seek .append k j c) :=
    reaches_seek hp2 Phase.noConfusion k j c
  refine htstamp.trans ?_
  have hp3 : paramsOk (tstamp (s2.seek .tstamp k j c)).cfg = true := hp2
  generalize tstamp (s2.seek .tstamp k j c) = s3 at hp3 ⊢
  have happend := reaches_seek hp3 (p := .append) Phase.noConfusion k j c
  have hbusy : (append (s3.seek .append k j c)).busy = true := by rw [State.busy, append_work]; rfl
  have hmove : (append (s3.seek .append k j c)).advance .append = (append (s3.seek .append k j c)).nextReading :=
    if_pos hbusy
  rw [nextReading_eq_afterReading, append_work] at hmove
  exact hmove ▸ happend

/-- R180, R133: the operations of one reading, or the two filters alone, and on to what follows the reading. -/
theorem reaches_processReading {s : State} (hp : paramsOk s.cfg = true) (k : Fin 12) (j : Fin 2) (c : Fin 16) :
    Reaches (s.seek .fltRange k j c) (afterReading (processReading s k j c) k j c) := by
  have hrange : Reaches (s.seek .fltRange k j c) ((fltRange (s.seek .fltRange k j c)).seek .fltAz k j c) :=
    reaches_seek hp Phase.noConfusion k j c
  have hp1 : paramsOk (fltRange (s.seek .fltRange k j c)).cfg = true := hp
  have hmask := reaches_seek hp1 (p := .fltAz) Phase.noConfusion k j c
  refine hrange.trans ?_
  unfold processReading; dsimp only
  generalize fltRange (s.seek .fltRange k j c) = s1 at hp1 hmask ⊢
  by_cases hvalid : (fltAz (s1.seek .fltAz k j c)).work.valid = true
  · rw [if_pos hvalid]
    have hmove : (fltAz (s1.seek .fltAz k j c)).advance .fltAz = (fltAz (s1.seek .fltAz k j c)).seek .azidx k j c :=
      if_pos hvalid
    exact (hmove ▸ hmask).trans (reaches_transform (s := fltAz (s1.seek .fltAz k j c)) hp1 k j c)
  · rw [if_neg hvalid]
    have hmove : (fltAz (s1.seek .fltAz k j c)).advance .fltAz = (fltAz (s1.seek .fltAz k j c)).nextReading :=
      if_neg hvalid
    rw [nextReading_eq_afterReading] at hmove
    exact hmove ▸ hmask

theorem boundary_work (s : State) : (boundary s).work = { s.work with boundary := s.crosses s.work.firing.fa } := by
  rw [boundary_spec]

theorem finalize_work_place (s : State) : (finalize s).work.k = s.work.k ∧ (finalize s).work.j = s.work.j ∧
    (finalize s).work.c = s.work.c := by
  rw [finalize_spec]; split <;> exact ⟨rfl, rfl, rfl⟩

/-- FINALIZE leaves PHASE at its own name or at that of the emission it ran last. -/
theorem finalize_busy {s : State} (h : s.busy = true) : (finalize s).busy = true := by
  rw [busy_iff] at h ⊢
  rw [finalize_spec]
  split
  · exact h
  · dsimp only
    split
    · exact Phase.noConfusion
    · split
      · exact Phase.noConfusion
      · exact h

/-- R200 to R203, R205: the boundary handling of one firing, up to its first channel. -/
theorem reaches_openFiring {s : State} (hp : paramsOk s.cfg = true) (k : Fin 12) (j : Fin 2) :
    Reaches (s.seek .boundary k j 0) ((openFiring s k j).seek .fltRange k j 0) := by
  have hboundary := reaches_seek hp (p := .boundary) Phase.noConfusion k j 0
  have hp1 := paramsOk_of_grows ((grows_seek s .boundary k j 0).trans (grows_boundary _)) hp
  have hwork := boundary_work (s.seek .boundary k j 0)
  unfold openFiring; dsimp only
  change Reaches _ ((boundary (s.seek .boundary k j 0)).advance .boundary) at hboundary
  generalize boundary (s.seek .boundary k j 0) = s1 at hp1 hwork hboundary ⊢
  have hbusy : s1.busy = true := by rw [State.busy, hwork]; rfl
  by_cases hcrossed : s1.work.boundary = true
  · rw [if_pos hcrossed]
    have hmove : s1.advance .boundary = s1.seek .finalize k j 0 := by
      rw [State.advance, if_pos hbusy]
      rw [if_pos hcrossed, State.enter, hwork]; rfl
    refine (hmove ▸ hboundary).trans ?_
    have hfinalize := reaches_seek hp1 (p := .finalize) Phase.noConfusion k j 0
    change Reaches _ ((finalize (s1.seek .finalize k j 0)).advance .finalize) at hfinalize
    have hp2 := paramsOk_of_grows ((grows_seek s1 .finalize k j 0).trans (grows_finalize _)) hp1
    have hbusy2 : (finalize (s1.seek .finalize k j 0)).busy = true := finalize_busy rfl
    obtain ⟨hk, hj, hc⟩ := finalize_work_place (s1.seek .finalize k j 0)
    generalize finalize (s1.seek .finalize k j 0) = s2 at hp2 hbusy2 hk hj hc hfinalize ⊢
    have hmove2 : s2.advance .finalize = s2.seek .newsweep k j 0 := by
      rw [State.advance, if_pos hbusy2]
      rw [State.enter, hk, hj, hc]; rfl
    refine (hmove2 ▸ hfinalize).trans ?_
    exact reaches_seek hp2 (p := .newsweep) Phase.noConfusion k j 0
  · rw [if_neg hcrossed]
    have hmove : s1.advance .boundary = (recordAz s1).seek .fltRange k j 0 := by
      rw [State.advance, if_pos hbusy]
      rw [if_neg hcrossed, State.startChannels, hwork]; rfl
    exact hmove ▸ hboundary

theorem reaches_processFiring {s : State} (hp : paramsOk s.cfg = true) (k : Fin 12) (j : Fin 2) :
    Reaches (s.seek .boundary k j 0) ((nextFiring k j).elim (processFiring s k j).endCommand
      fun kj => (processFiring s k j).seek .boundary kj.1 kj.2 0) := by
  refine (reaches_openFiring hp k j).trans ?_
  unfold processFiring
  rw [channels_counted.1]
  exact reaches_loop (place := fun (s : State) c => s.seek .fltRange k j c)
    (after := fun s => (nextFiring k j).elim s.endCommand fun kj => s.seek .boundary kj.1 kj.2 0)
    (fun s c => grows_processReading s k j c) (fun s c hp => reaches_processReading hp k j c)
    channels_counted.2 (paramsOk_of_grows (grows_openFiring s k j) hp)

theorem reaches_accumulate {s : State} (hp : paramsOk s.cfg = true) :
    Reaches (s.seek .boundary 0 0 0) (accumulate s).endCommand := by
  unfold accumulate
  rw [firings_counted.1]
  refine reaches_loop (place := fun (s : State) kj => s.seek .boundary kj.1 kj.2 0) (after := State.endCommand)
    (fun s kj => ?_) (fun s kj hp => ?_) firings_counted.2 hp
  · exact grows_processFiring s kj.1 kj.2
  · exact reaches_processFiring hp kj.1 kj.2

/-- R133: from a validated packet to the end of the command. -/
theorem reaches_processPacket {s : State} (hp : paramsOk s.cfg = true) : Reaches (s.seek .tsld 0 0 0) (processPacket s) := by
  unfold processPacket
  exact (reaches_decodePacket hp).trans (reaches_accumulate (paramsOk_of_grows (grows_decodePacket s) hp))

/-- R133: from the loaded packet to the end of the command, whether or not the packet is valid. -/
theorem reaches_receive {s : State} (hp : paramsOk s.cfg = true) (hmode : s.mode = .run) (len : BitVec 12)
    (payload : List Byte) : Reaches ((s.loadPacket len payload).seek .valSize 0 0 0) (receive s len payload) := by
  have hvalidate : Reaches ((s.loadPacket len payload).seek .valSize 0 0 0)
      (afterValidation (validate (s.loadPacket len payload))) := reaches_validate hp
  have hvalidated := paramsOk_of_grows ((grows_work s _).trans (grows_validate (s.loadPacket len payload))) hp
  have hreceive : receive s len payload = if (validate (s.loadPacket len payload)).busy
      then processPacket (validate (s.loadPacket len payload)) else validate (s.loadPacket len payload) :=
    if_neg (not_not.2 hmode)
  rw [hreceive]
  refine hvalidate.trans ?_
  unfold afterValidation
  split
  · exact reaches_processPacket hvalidated
  · exact Reaches.refl _

/-- Settles O60: the steps that perform RECV, counted. -/
theorem sequencerPerformsRecv : Obligations.SequencerPerformsRecv := by
  intro s len d payload hp hmode
  exact core_run_of_reaches (reaches_receive (s := s.accept (cmdWord 3 len d)) hp hmode len payload)

end Sys2Proof.Machine
end

section
/-! PROOFS for `20_memory.md`: the packet load of RECV (R44, R69). -/

namespace Sys2Proof.Machine

/-- R69: a whole packet replaces the buffer, whatever it held before. -/
theorem loadPacket_work_pkt (s : State) {p : List Byte} (hp : p.length = packetBytes) :
    (s.loadPacket 1206 p).work.pkt = Memory.load 0 p := by
  have hlen : (1206 : BitVec 12).toNat = packetBytes := rfl
  simp only [State.loadPacket, if_pos hlen, List.take_of_length_le hp.le]

/-- Settles O21: the bytes by `read_loadPacket`; the canonical form holds of the load itself, so the buffer before it does not
matter. -/
theorem packetLoadStoresPayload : Obligations.PacketLoadStoresPayload := by
  intro s p hp
  refine ⟨fun i hi => ?bytes, ?canonical, ?frame⟩
  case bytes =>
    have hip : i < p.length := hp ▸ hi
    rw [read_loadPacket s hp, List.getElem?_eq_getElem hip, List.getD_eq_getElem p 0 hip]
  case canonical =>
    rw [loadPacket_work_pkt s hp]
    exact Memory.wf_load p hp.le
  case frame => rfl

end Sys2Proof.Machine
end

section
/-! PROOFS for `30_encoding.md`: the decoder and the encoder are inverse to each other. One lemma per format of the table: command
words (R101, R102, R105), blocks (R92, R95), the trailer (R91), phase codes (R113), diagnostic codes (R230). -/

namespace Sys2Proof

open Laws

/-! ### Command words -/

/-- R101: OP, A and D are all the bits of a command word. -/
theorem cmdWord_fields (w : BitVec 48) : cmdWord (cmdOp w) (cmdA w) (cmdD w) = w := by
  apply BitVec.eq_of_getLsbD_eq
  intro i hi
  simp only [cmdOp, cmdA, cmdD, cmdWord, BitVec.getLsbD_append, BitVec.getLsbD_extractLsb']
  by_cases hd : i < 32
  · simp [hd]
  · by_cases ha : i - 32 < 12
    · simp [hd, ha, show 32 + (i - 32) = i by omega]
    · simp [hd, ha, show i - 32 - 12 < 4 by omega, show 44 + (i - 32 - 12) = i by omega]

/-- R105: the number of payload bytes a command word calls for. -/
def payloadBytes (w : BitVec 48) : Nat := if cmdOp w = 3 then (cmdA w).toNat else 0

theorem opcode_cases : ∀ op : BitVec 4, op ≠ 3 → op = 0 ∨ op = 1 ∨ op = 2 ∨ op = 4 ∨ op = 5 ∨ op = 6 ∨ op = 7 ∨ op = 8 ∨
    op = 9 ∨ op = 10 ∨ op = 11 ∨ op = 12 ∨ op = 13 ∨ op = 14 ∨ op = 15 := by decide

/-- R102: every opcode but RECV's has a row that takes no payload. -/
theorem exists_instr_of_opcode {op : BitVec 4} (hop : op ≠ 3) (a : BitVec 12) (d : BitVec 32) :
    ∃ i : Instr, i.wellFormed = true ∧ RoundTrip.Statement i ∧ ∀ cfg, encode cfg i = .cmd (cmdWord op a d) [] := by
  rcases opcode_cases op hop with rfl | rfl | rfl | rfl | rfl | rfl | rfl | rfl | rfl | rfl | rfl | rfl | rfl | rfl | rfl
  · exact ⟨_, rfl, RoundTrip.reserved0 a d, fun _ => rfl⟩
  · exact ⟨_, rfl, RoundTrip.cfgwr a d, fun _ => rfl⟩
  · exact ⟨_, rfl, RoundTrip.init a d, fun _ => rfl⟩
  · exact ⟨_, rfl, RoundTrip.setch a d, fun _ => rfl⟩
  · exact ⟨_, rfl, RoundTrip.reserved5 a d, fun _ => rfl⟩
  · exact ⟨_, rfl, RoundTrip.reserved6 a d, fun _ => rfl⟩
  · exact ⟨_, rfl, RoundTrip.reserved7 a d, fun _ => rfl⟩
  · exact ⟨_, rfl, RoundTrip.reserved8 a d, fun _ => rfl⟩
  · exact ⟨_, rfl, RoundTrip.reserved9 a d, fun _ => rfl⟩
  · exact ⟨_, rfl, RoundTrip.reservedA a d, fun _ => rfl⟩
  · exact ⟨_, rfl, RoundTrip.reservedB a d, fun _ => rfl⟩
  · exact ⟨_, rfl, RoundTrip.reservedC a d, fun _ => rfl⟩
  · exact ⟨_, rfl, RoundTrip.reservedD a d, fun _ => rfl⟩
  · exact ⟨_, rfl, RoundTrip.reservedE a d, fun _ => rfl⟩
  · exact ⟨_, rfl, RoundTrip.reservedF a d, fun _ => rfl⟩

/-- R102, R105: a command word with the payload it calls for is the encoding of an instruction, whatever the bank headers. -/
theorem exists_instr_of_command {w : BitVec 48} {payload : List Byte} (hlen : payload.length = payloadBytes w) :
    ∃ i : Instr, i.wellFormed = true ∧ RoundTrip.Statement i ∧ ∀ cfg, encode cfg i = .cmd w payload := by
  unfold payloadBytes at hlen
  by_cases hop : cmdOp w = 3
  · rw [if_pos hop] at hlen
    refine ⟨.recv (cmdA w) (cmdD w) payload, beq_iff_eq.2 hlen, RoundTrip.recv _ _ _, fun cfg => ?_⟩
    rw [encode, ← hop, cmdWord_fields]
  · rw [if_neg hop] at hlen
    rw [List.eq_nil_of_length_eq_zero hlen, ← cmdWord_fields w]
    exact exists_instr_of_opcode hop (cmdA w) (cmdD w)

/-- The bank headers play no part in a command word, so any two distinct ones serve for its round trip. -/
theorem decodeCmd_of_encode {i : Instr} (hi : i.wellFormed = true) (hround : RoundTrip.Statement i) {w : BitVec 48}
    {payload : List Byte} (hencode : ∀ cfg, encode cfg i = .cmd w payload) : decodeCmd w payload = .ok i := by
  have h := hround Config.ref (by decide) hi
  rwa [hencode] at h

/-- R101, R105: no other payload is decoded. -/
theorem payload_length_of_decodeCmd {w : BitVec 48} {payload : List Byte} {i : Instr} (h : decodeCmd w payload = .ok i) :
    payload.length = payloadBytes w := by
  unfold decodeCmd at h
  unfold payloadBytes
  split at h
  · split at h
    · rwa [if_pos ‹_›]
    · cases h
  · split at h
    · cases h
    next hnil => rw [if_neg ‹_›, not_not.1 hnil, List.length_nil]

theorem encode_of_decodeCmd_eq {w : BitVec 48} {payload : List Byte} {i : Instr} (h : decodeCmd w payload = .ok i) :
    i.wellFormed = true ∧ ∀ cfg, encode cfg i = .cmd w payload := by
  obtain ⟨i', hi, hround, hencode⟩ := exists_instr_of_command (payload_length_of_decodeCmd h)
  rw [decodeCmd_of_encode hi hround hencode] at h
  cases h
  exact ⟨hi, hencode⟩

/-! ### The packet's bytes -/

/-- R65: a value read of bytes, in a word as wide as they are, is written back as them. -/
theorem leBytes_ofNat_leNat (bs : List Byte) : leBytes bs.length (BitVec.ofNat (8 * bs.length) (leNat bs)).toNat = bs := by
  have hlt : leNat bs < 2 ^ (8 * bs.length) := by rw [Nat.pow_mul]; exact leNat_lt bs
  rw [BitVec.toNat_ofNat, Nat.mod_eq_of_lt hlt, leBytes_leNat]

theorem leBytes_ofNat_leNat_two (b0 b1 : Byte) : leBytes 2 (BitVec.ofNat 16 (leNat [b0, b1])).toNat = [b0, b1] :=
  leBytes_ofNat_leNat [b0, b1]

theorem leBytes_ofNat_leNat_four (b0 b1 b2 b3 : Byte) :
    leBytes 4 (BitVec.ofNat 32 (leNat [b0, b1, b2, b3])).toNat = [b0, b1, b2, b3] :=
  leBytes_ofNat_leNat [b0, b1, b2, b3]

/-- R93: the bytes readings are read of are the bytes they are written as. -/
theorem flatMap_readingBytes_of_readingsOf (bytes : List Byte) :
    ∀ {rd : List Reading}, readingsOf bytes = some rd → rd.flatMap readingBytes = bytes := by
  induction bytes using readingsOf.induct with
  | case1 => rintro rd ⟨⟩; rfl
  | case2 lo hi int rest ih =>
    intro rd h
    obtain ⟨rd', hrest, rfl⟩ := Option.map_eq_some_iff.1 h
    rw [List.flatMap_cons, ih hrest, readingBytes, leBytes_ofNat_leNat_two]
    rfl
  | case3 bytes hnil hcons => intro rd h; rw [readingsOf.eq_3 bytes hnil hcons] at h; cases h

/-- R92, R95: a block that decodes is written back. -/
theorem encode_of_decodeBlk {cfg : Config} {bytes : List Byte} {i : Instr} (h : decodeBlk cfg bytes = .ok i) :
    i.wellFormed = true ∧ encode cfg i = .blk bytes := by
  unfold decodeBlk at h
  split at h
  next h0 h1 r0 r1 rest =>
    have hbytes {hdr : BitVec 16} (hhdr : BitVec.ofNat 16 (leNat [h0, h1]) = hdr) {rd : List Reading}
        (hrd : readingsOf rest = some rd) (hsize : rd.toArray.size = 32) :
        blockBytes hdr (BitVec.ofNat 16 (leNat [r0, r1])) ⟨rd.toArray, hsize⟩ = h0 :: h1 :: r0 :: r1 :: rest := by
      rw [blockBytes, ← hhdr, leBytes_ofNat_leNat_two, leBytes_ofNat_leNat_two]
      simp [Vector.toList, flatMap_readingBytes_of_readingsOf rest hrd]
    split at h
    · cases h
    next rd hrd =>
      split at h
      next hsize =>
        split at h
        next hupper => cases h; exact ⟨rfl, congrArg Item.blk (hbytes hupper hrd hsize)⟩
        split at h
        next hlower => cases h; exact ⟨rfl, congrArg Item.blk (hbytes hlower hrd hsize)⟩
        · cases h
      · cases h
  · cases h

/-- R91, R99, R100: a trailer that decodes is written back. -/
theorem encode_of_decodeTrailer (cfg : Config) {bytes : List Byte} {i : Instr} (h : decodeTrailer bytes = .ok i) :
    i.wellFormed = true ∧ encode cfg i = .pkt bytes := by
  unfold decodeTrailer at h
  split at h
  next t0 t1 t2 t3 f0 f1 =>
    cases h
    refine ⟨rfl, ?_⟩
    rw [encode, trailerBytes, leBytes_ofNat_leNat_four, leBytes_ofNat_leNat_two]
    rfl
  · cases h

/-! ### Codes -/

theorem phaseCode_ofCode {code : BitVec 5} {p : Phase} (h : Phase.ofCode code = some p) : p.code = code := by
  have hall : ∀ code : BitVec 5, (Phase.ofCode code).all (fun p => p.code = code) = true := by decide
  simpa [h] using hall code

theorem causeCode_ofCode {code : BitVec 8} {c : Cause} (h : Cause.ofCode code = some c) : c.code = code := by
  unfold Cause.ofCode at h
  split at h <;> cases h <;> exact (BitVec.eq_of_toNat_eq ‹_›).symm

theorem encode_phase (cfg : Config) (p : Phase) : p.instr.wellFormed = true ∧ encode cfg p.instr = .seq p.code := by
  cases p <;> exact ⟨rfl, rfl⟩

theorem encode_cause (cfg : Config) (c : Cause) : c.instr.wellFormed = true ∧ encode cfg c.instr = .evt c.code := by
  cases c <;> exact ⟨rfl, rfl⟩

/-! ### The obligations -/

/-- Every row of the opcode table reads back. -/
theorem roundTrip : ∀ i : Instr, RoundTrip.Statement i
  | .cfgwr a d => RoundTrip.cfgwr a d
  | .init a d => RoundTrip.init a d
  | .recv len d payload => RoundTrip.recv len d payload
  | .setch a d => RoundTrip.setch a d
  | .reserved0 a d => RoundTrip.reserved0 a d
  | .reserved5 a d => RoundTrip.reserved5 a d
  | .reserved6 a d => RoundTrip.reserved6 a d
  | .reserved7 a d => RoundTrip.reserved7 a d
  | .reserved8 a d => RoundTrip.reserved8 a d
  | .reserved9 a d => RoundTrip.reserved9 a d
  | .reservedA a d => RoundTrip.reservedA a d
  | .reservedB a d => RoundTrip.reservedB a d
  | .reservedC a d => RoundTrip.reservedC a d
  | .reservedD a d => RoundTrip.reservedD a d
  | .reservedE a d => RoundTrip.reservedE a d
  | .reservedF a d => RoundTrip.reservedF a d
  | .blkUpper rot rd => RoundTrip.blkUpper rot rd
  | .blkLower rot rd => RoundTrip.blkLower rot rd
  | .pktTrailer ts factory => RoundTrip.pktTrailer ts factory
  | .idle => RoundTrip.idle
  | .valSize => RoundTrip.valSize
  | .valHdr => RoundTrip.valHdr
  | .valAlt => RoundTrip.valAlt
  | .tsld => RoundTrip.tsld
  | .rotld => RoundTrip.rotld
  | .delta => RoundTrip.delta
  | .firbase => RoundTrip.firbase
  | .fdelta => RoundTrip.fdelta
  | .chdec => RoundTrip.chdec
  | .interp => RoundTrip.interp
  | .boundary => RoundTrip.boundary
  | .finalize => RoundTrip.finalize
  | .emitBatch => RoundTrip.emitBatch
  | .emitScan => RoundTrip.emitScan
  | .newsweep => RoundTrip.newsweep
  | .fltRange => RoundTrip.fltRange
  | .fltAz => RoundTrip.fltAz
  | .azidx => RoundTrip.azidx
  | .xform => RoundTrip.xform
  | .tstamp => RoundTrip.tstamp
  | .append => RoundTrip.append
  | .diagBadSize => RoundTrip.diagBadSize
  | .diagBadHeader => RoundTrip.diagBadHeader
  | .diagBadAlternation => RoundTrip.diagBadAlternation
  | .diagAzOutOfRange => RoundTrip.diagAzOutOfRange
  | .diagConfigError => RoundTrip.diagConfigError
  | .diagNotRunning => RoundTrip.diagNotRunning
  | .diagBadCmd => RoundTrip.diagBadCmd
  | .diagCfgLocked => RoundTrip.diagCfgLocked
  | .diagSweepOverflow => RoundTrip.diagSweepOverflow

/-- Settles O1: row by row. -/
theorem decodeInvertsEncode : Obligations.DecodeInvertsEncode := fun cfg i hne hi => roundTrip i cfg hne hi

/-- Settles O2: format by format. -/
theorem encodeInvertsDecode : Obligations.EncodeInvertsDecode := by
  intro cfg item i h
  cases item with
  | cmd w payload =>
    obtain ⟨hi, hencode⟩ := encode_of_decodeCmd_eq h
    exact ⟨hi, hencode cfg⟩
  | blk bytes => exact encode_of_decodeBlk h
  | pkt bytes => exact encode_of_decodeTrailer cfg h
  | seq code =>
    simp only [decode] at h
    split at h
    next p hp => cases h; rw [← phaseCode_ofCode hp]; exact encode_phase cfg p
    · cases h
  | evt code =>
    simp only [decode] at h
    split at h
    next c hc => cases h; rw [← causeCode_ofCode hc]; exact encode_cause cfg c
    · cases h

/-- Settles O3: the instruction whose encoding the word is, decoded. -/
theorem everyCommandWordDecodes : Obligations.EveryCommandWordDecodes := by
  intro cfg w payload hlen
  obtain ⟨i, hi, hround, hencode⟩ := exists_instr_of_command hlen
  exact ⟨i, decodeCmd_of_encode hi hround hencode, hencode cfg⟩

/-- R102, R105: a bare RECV word is followed by LEN zero bytes (log 7). -/
theorem decodeTableWord_recv {w : Nat} (hop : cmdOp (BitVec.ofNat 48 w) = 3) :
    decodeTableWord 48 w = some (.recv (cmdA (BitVec.ofNat 48 w)) (cmdD (BitVec.ofNat 48 w))
      (List.replicate (cmdA (BitVec.ofNat 48 w)).toNat 0)) := by
  simp [decodeTableWord, itemOfWord, decode, decodeCmd, hop]

/-- Settles O4: each short encoding is evaluated; the payload of RECV is not written out. -/
theorem listedEncodingsDecode : Obligations.ListedEncodingsDecode :=
  ⟨by decide, by decide, decodeTableWord_recv (by decide), by decide, by decide, by decide, by decide, by decide⟩

end Sys2Proof
end

section
/-! PROOFS for `30_encoding.md`: what a phase row leaves in PHASE (R113, R242), and the rows of the packet taken one at a time: the
trailer (R99, R100, R167) and a block of either bank (R95, R152, R153, R161, R165). -/

namespace Sys2Proof.Machine

/-! ### PHASE after a row -/

theorem phaseOp_valSize_phase (s : State) :
    (phaseOp .valSize s).work.phase = if s.work.pktLen.toNat = packetBytes then .valSize else .idle := by
  rw [phaseOp, valSize_spec, enter_work_pktLen, apply_ite (fun t : State => t.work.phase)]
  rfl

theorem phaseOp_valHdr_phase (s : State) : (phaseOp .valHdr s).work.phase =
    if s.work.header s.work.k = s.cfg.bankUpper ∨ s.work.header s.work.k = s.cfg.bankLower then .valHdr else .idle := by
  rw [phaseOp, valHdr_spec, apply_ite (fun t : State => t.work.phase)]
  simp only [ne_eq, ← not_or, ite_not]
  rfl

theorem phaseOp_valAlt_phase (s : State) : (phaseOp .valAlt s).work.phase =
    if 0 < s.work.k.val ∧ s.work.hdr = s.work.hdrPrev then .idle else .valAlt := by
  rw [phaseOp, valAlt_spec, apply_ite (fun t : State => t.work.phase)]
  rfl

theorem phaseOp_finalize_phase (s : State) : (phaseOp .finalize s).work.phase =
    if s.firstSweep then .finalize else if s.scanEn then .emitScan else if s.cloudEn then .emitBatch else .finalize := by
  rw [phaseOp, finalize_spec, apply_ite (fun t : State => t.work.phase)]
  rfl

/-- R113: a row without a check and without operations of its own leaves its name. -/
theorem phaseOp_phase {p : Phase} (hsize : p ≠ .valSize) (hhdr : p ≠ .valHdr) (halt : p ≠ .valAlt) (hfin : p ≠ .finalize)
    (hidle : p ≠ .idle) (s : State) : (phaseOp p s).work.phase = p := by
  cases p with
  | idle => exact absurd rfl hidle
  | valSize => exact absurd rfl hsize
  | valHdr => exact absurd rfl hhdr
  | valAlt => exact absurd rfl halt
  | finalize => exact absurd rfl hfin
  | rotld => exact (rotld_work_place _).1
  | boundary => rw [phaseOp, boundary_work]; rfl
  | emitScan => rw [phaseOp, emitScan_spec]; rfl
  | append => rw [phaseOp, append_work]; rfl
  | tsld | delta | firbase | fdelta | chdec | interp | emitBatch | newsweep | fltRange | fltAz | azidx | xform | tstamp => rfl

/-- Settles O59: the three checks and FINALIZE each by its own lemma, every other row by `phaseOp_phase`. -/
theorem phaseNamesRunningOperation : Obligations.PhaseNamesRunningOperation := by
  intro p s hidle
  refine ⟨phaseOp p s, exec_phase p s, ?_⟩
  by_cases hsize : p = .valSize
  · subst hsize; exact phaseOp_valSize_phase s
  by_cases hhdr : p = .valHdr
  · subst hhdr; exact phaseOp_valHdr_phase s
  by_cases halt : p = .valAlt
  · subst halt; exact phaseOp_valAlt_phase s
  by_cases hfin : p = .finalize
  · subst hfin; exact phaseOp_finalize_phase s
  rw [if_neg hsize, if_neg hhdr, if_neg halt, if_neg hfin]
  exact phaseOp_phase hsize hhdr halt hfin hidle s

/-! ### Bytes stored in PKT -/

/-- R69: after a run of bytes is stored, its addresses read as the bytes and every other one as before. -/
theorem Memory.read_writeAll {m : Memory} {a : Nat} {vs : List Byte} (hm : m.wf = true)
    (hinside : a + vs.length ≤ packetBytes) (b : Nat) : Memory.read (Memory.writeAll m a vs) b =
      if a ≤ b ∧ b < a + vs.length then vs.getD (b - a) 0 else Memory.read m b := by
  induction vs generalizing m a with
  | nil => rw [if_neg (by simp)]; rfl
  | cons v vs ih =>
    rw [List.length_cons] at hinside ⊢
    rw [Memory.writeAll, ih (Memory.wf_write v hm (by omega)) (by omega)]
    rcases Nat.lt_trichotomy b a with hlt | rfl | hgt
    · rw [if_neg (by omega), if_neg (by omega), Memory.read_write_other m v hlt.ne]
    · rw [if_neg (by omega), if_pos (by omega), Memory.read_write_same v hm, Nat.sub_self, List.getD_cons_zero]
    · have hindex : b - a = b - (a + 1) + 1 := by omega
      rw [Memory.read_write_other m v hgt.ne', hindex, List.getD_cons_succ]
      exact if_congr (by omega) rfl rfl

/-- R65: a field of the stored bytes is read as they say. -/
theorem memRead_writeAll {m : Memory} {a : Nat} {vs : List Byte} (hm : m.wf = true) (hinside : a + vs.length ≤ packetBytes)
    {field offset n : Nat} (hfield : field = a + offset) (hwithin : offset + n ≤ vs.length) (h : field + n ≤ packetBytes) :
    memRead (Memory.writeAll m a vs) field n h = leNat ((vs.drop offset).take n) := by
  unfold memRead
  congr 1
  refine List.ext_getElem (by simp; omega) fun i hi hi' => ?_
  have hin : i < n := by simpa using hi
  have hoffset : a + offset + i - a = offset + i := by omega
  rw [List.getElem_map, List.getElem_range, Memory.read_writeAll hm hinside, hfield, if_pos (by omega), hoffset,
    List.getElem_take, List.getElem_drop, List.getD_eq_getElem]

/-! ### The trailer -/

section
variable {m : Memory} {w : Work} {ts : BitVec 32} {factory : BitVec 16} (hm : m.wf = true)
  (hpkt : w.pkt = Memory.writeAll m 1200 (trailerBytes ts factory))
include hm hpkt

/-- R65: a field of a placed trailer is read as the trailer says. -/
theorem memRead_of_trailer {offset n : Nat} (hwithin : offset + n ≤ 6) (h : 1200 + offset + n ≤ packetBytes) :
    memRead w.pkt (1200 + offset) n h = leNat (((trailerBytes ts factory).drop offset).take n) := by
  have hlen := trailerBytes_length ts factory
  rw [hpkt, memRead_writeAll hm (by rw [hlen]) rfl (by rwa [hlen])]

/-- R99. -/
theorem tsField_of_trailer : w.tsField = ts :=
  (congrArg (BitVec.ofNat 32) (memRead_of_trailer hm hpkt (offset := 0) (by decide) (by decide))).trans
    (ofNat_leNat_leBytes_four ts)

/-- R100. -/
theorem factoryField_of_trailer : w.factoryField = factory :=
  (congrArg (BitVec.ofNat 16) (memRead_of_trailer hm hpkt (offset := 4) (by decide) (by decide))).trans
    (ofNat_leNat_leBytes_two factory)

end

/-- PKT.TRAILER stores its bytes and loads its two fields. -/
theorem placeTrailer_spec {s : State} (hm : Memory.wf s.work.pkt = true) (ts : BitVec 32) (factory : BitVec 16) :
    placeTrailer s ts factory = { s with work := { s.work with
      pkt := Memory.writeAll s.work.pkt 1200 (trailerBytes ts factory), ts := ts, factory := factory } } := by
  unfold placeTrailer tsld
  dsimp only
  rw [tsField_of_trailer hm rfl, factoryField_of_trailer hm rfl]
  rfl

/-- Settles O50: the fields by `placeTrailer_spec`, the bytes by `Memory.read_writeAll`. -/
theorem trailerIsLoaded : Obligations.TrailerIsLoaded := by
  intro s ts factory hm
  refine ⟨_, congrArg Host.Outcome.next (placeTrailer_spec hm ts factory), rfl, fun a => ?_⟩
  have hlen := trailerBytes_length ts factory
  dsimp only
  rw [Memory.read_writeAll hm (by rw [hlen]), hlen]

/-! ### The bytes of a block -/

/-- R93: the readings are three bytes each. -/
theorem drop_flatMap_readingBytes (l : List Reading) (i : Nat) :
    (l.flatMap readingBytes).drop (3 * i) = (l.drop i).flatMap readingBytes := by
  induction l generalizing i with
  | nil => simp
  | cons r l ih =>
    cases i with
    | zero => rfl
    | succ i =>
      have hlen : (readingBytes r).length = 3 := by simp [readingBytes]
      rw [List.flatMap_cons, List.drop_succ_cons, ← ih i, show 3 * (i + 1) = (readingBytes r).length + 3 * i by omega,
        List.drop_length_add_append]

/-- R63, R93: the bytes of reading i of a block. -/
theorem drop_blockBytes_reading (hdr rot : BitVec 16) {rd : Vector Reading 32} {i : Nat} {r : Reading}
    (hr : rd[i]? = some r) :
    (blockBytes hdr rot rd).drop (4 + 3 * i) = readingBytes r ++ (rd.toList.drop (i + 1)).flatMap readingBytes := by
  obtain ⟨hi, rfl⟩ := Vector.getElem?_eq_some_iff.1 hr
  have hfields : (leBytes 2 hdr.toNat ++ leBytes 2 rot.toNat).length = 4 := by simp
  have hcons : rd.toList.drop i = rd[i] :: rd.toList.drop (i + 1) := by
    rw [List.drop_eq_getElem_cons (by simpa using hi), Vector.getElem_toList]
  rw [blockBytes, ← hfields, List.drop_length_add_append, drop_flatMap_readingBytes, hcons, List.flatMap_cons]

theorem blockBytes_inside (k : Fin 12) (hdr rot : BitVec 16) (rd : Vector Reading 32) :
    100 * k.val + (blockBytes hdr rot rd).length ≤ packetBytes := by
  rw [blockBytes_length]; have := k.isLt; unfold packetBytes; omega

section
variable {m : Memory} {w : Work} {k : Fin 12} {hdr rot : BitVec 16} {rd : Vector Reading 32} (hm : m.wf = true)
  (hpkt : w.pkt = Memory.writeAll m (100 * k.val) (blockBytes hdr rot rd))
include hm hpkt

/-- R65: a field of a placed block is read as the block says. -/
theorem memRead_of_block {field offset n : Nat} (hfield : field = 100 * k.val + offset) (hwithin : offset + n ≤ 100)
    (h : field + n ≤ packetBytes) : memRead w.pkt field n h = leNat (((blockBytes hdr rot rd).drop offset).take n) := by
  rw [hpkt, memRead_writeAll hm (blockBytes_inside k hdr rot rd) hfield (by rwa [blockBytes_length])]

/-- R95. -/
theorem header_of_block : w.header k = hdr := by
  rw [Work.header, memRead_of_block hm hpkt (Nat.add_zero (100 * k.val)).symm (by decide)]
  exact ofNat_leNat_leBytes_two hdr

/-- R96. -/
theorem rot_of_block : w.rot k = rot := by
  rw [Work.rot, memRead_of_block hm hpkt (offset := 2) rfl (by decide)]
  exact ofNat_leNat_leBytes_two rot

variable {j : Fin 2} {c : Fin 16} {r : Reading} (hr : rd[16 * j.val + c.val]? = some r)
include hr

/-- R97. -/
theorem rawDist_of_block : w.rawDist k j c = r.dist := by
  rw [Work.rawDist, memRead_of_block hm hpkt (field := readingAt k j c) (Nat.add_assoc _ _ _) (by omega),
    drop_blockBytes_reading hdr rot hr]
  exact ofNat_leNat_leBytes_two r.dist

/-- R98. -/
theorem rawInt_of_block : w.rawInt k j c = r.int := by
  rw [Work.rawInt, memRead_of_block hm hpkt (offset := 4 + 3 * (16 * j.val + c.val) + 2) (by unfold readingAt; omega)
    (by omega), ← List.drop_drop, drop_blockBytes_reading hdr rot hr]
  simp [readingBytes, leBytes, leNat]

end

/-! ### What the decoder reads from one block -/

/-- CHDEC at reading (k, j, c), wherever the sequencer stood before. -/
theorem chdec_seek_spec (t : State) (k : Fin 12) (j : Fin 2) (c : Fin 16) : ∃ v : Len,
    v.toNat = (t.work.rawDist k j c).toNat * t.distRes.toNat ∧
    (∀ g : Fin 24, (chdec (t.seek .chdec k j c)).work.fir[g] =
      if firingIndex k j = g then { t.work.fir[firingIndex k j] with
        dist := t.work.fir[firingIndex k j].dist.set c v
        int := t.work.fir[firingIndex k j].int.set c (t.work.rawInt k j c) }
      else t.work.fir[g]) := by
  obtain ⟨v, hstate, hv⟩ := chdec_spec (t.seek .chdec k j c)
  refine ⟨v, hv, fun g => ?_⟩
  rw [hstate]
  exact setFiring_fir _ _ _ _

/-- R165: `t` is `s` after the listed readings of block k, wherever the sequencer stands. -/
structure ReadingsDone (s : State) (k : Fin 12) (done : List (Fin 2 × Fin 16)) (t : State) : Prop where
  frame : ∀ w : Work, t.resume w = ({ s with work := { s.work with fir := t.work.fir } } : State).resume w
  read : ∀ j c, (j, c) ∈ done →
    (t.work.fir[firingIndex k j].dist[c]).toNat = (s.work.rawDist k j c).toNat * s.distRes.toNat ∧
    t.work.fir[firingIndex k j].int[c] = s.work.rawInt k j c
  azimuths : ∀ g : Fin 24, t.work.fir[g].fa = s.work.fir[g].fa ∧ t.work.fir[g].az = s.work.fir[g].az
  others : ∀ g : Fin 24, (∀ j, firingIndex k j ≠ g) → t.work.fir[g] = s.work.fir[g]

theorem readingsDone_nil (s : State) (p : Phase) (k : Fin 12) (j : Fin 2) (c : Fin 16) :
    ReadingsDone s k [] (s.seek p k j c) where
  frame := fun _ => rfl
  read := fun _ _ h => absurd h List.not_mem_nil
  azimuths := fun _ => ⟨rfl, rfl⟩
  others := fun _ _ => rfl

section
variable {s t : State} {k : Fin 12} {done : List (Fin 2 × Fin 16)} (h : ReadingsDone s k done t)
include h

theorem ReadingsDone.rawDist (j : Fin 2) (c : Fin 16) : t.work.rawDist k j c = s.work.rawDist k j c :=
  (congrArg (fun u : State => u.work.rawDist k j c) (h.frame s.work) :)

theorem ReadingsDone.rawInt (j : Fin 2) (c : Fin 16) : t.work.rawInt k j c = s.work.rawInt k j c :=
  (congrArg (fun u : State => u.work.rawInt k j c) (h.frame s.work) :)

theorem ReadingsDone.distRes : t.distRes = s.distRes := (congrArg State.distRes (h.frame s.work) :)

/-- One more reading: its entry is written, and every entry written before is kept. -/
theorem readingsDone_chdec (j : Fin 2) (c : Fin 16) : ReadingsDone s k (done ++ [(j, c)]) (chdec (t.seek .chdec k j c)) := by
  obtain ⟨v, hv, hfir⟩ := chdec_seek_spec t k j c
  rw [h.rawDist, h.distRes] at hv
  rw [h.rawInt] at hfir
  constructor
  case frame =>
    intro w
    exact (congrArg (fun u : State =>
      ({ u with work := { u.work with fir := (chdec (t.seek .chdec k j c)).work.fir } } : State)) (h.frame w) :)
  case read =>
    intro j' c' hmem
    rw [hfir]
    split
    next hfiring =>
      obtain ⟨-, rfl⟩ := firingIndex_inj hfiring
      dsimp only
      rw [getElem_set_fin, getElem_set_fin]
      by_cases hc : c = c'
      · subst hc; rw [if_pos rfl, if_pos rfl]; exact ⟨hv, rfl⟩
      · rw [if_neg hc, if_neg hc]; exact h.read j c' (by simpa [Ne.symm hc] using hmem)
    next hfiring =>
      have hj : j' ≠ j := fun heq => hfiring (heq ▸ rfl)
      exact h.read j' c' (by simpa [hj] using hmem)
  case azimuths =>
    intro g
    rw [hfir]
    split
    next hfiring => subst hfiring; exact h.azimuths _
    · exact h.azimuths g
  case others =>
    intro g hg
    rw [hfir, if_neg (hg j)]
    exact h.others g hg

end

theorem readingsDone_foldl {s t : State} {k : Fin 12} {done : List (Fin 2 × Fin 16)} (h : ReadingsDone s k done t)
    (l : List (Fin 2 × Fin 16)) :
    ReadingsDone s k (done ++ l) (l.foldl (fun t jc => chdec (t.seek .chdec k jc.1 jc.2)) t) := by
  induction l generalizing t done with
  | nil => rwa [List.append_nil]
  | cons jc l ih => rw [List.foldl_cons, List.append_cons]; exact ih (readingsDone_chdec h jc.1 jc.2)

/-- R160: the readings of a block in the order they are read. -/
def blockReadings : List (Fin 2 × Fin 16) := [(0 : Fin 2), 1].flatMap fun j => channels.map fun c => (j, c)

theorem mem_blockReadings : ∀ (j : Fin 2) (c : Fin 16), (j, c) ∈ blockReadings := by decide

/-- R160: the two loops over a block's readings are one. -/
theorem decodeBlockFields_eq (s : State) (k : Fin 12) : decodeBlockFields s k =
    blockReadings.foldl (fun t jc => chdec (t.seek .chdec k jc.1 jc.2)) (rotld (s.seek .rotld k 0 0)) := by
  simp only [blockReadings, List.foldl_flatMap, List.foldl_map]
  rfl

/-- R161, R230: the report of a rotation, its info one number. -/
theorem rotation_info_eq_ofNat (rot : BitVec 16) (k : Fin 12) :
    (rot.setWidth 32 <<< 16) ||| BitVec.ofNat 32 k.val = BitVec.ofNat 32 (65536 * rot.toNat + k.val) := by
  have hrot := rot.isLt
  have hk := k.isLt
  apply BitVec.eq_of_toNat_eq
  have hor := Nat.shiftLeft_add_eq_or_of_lt (show k.val < 2 ^ 16 by omega) rot.toNat
  have hshift : rot.toNat <<< 16 = rot.toNat * 65536 := Nat.shiftLeft_eq _ _
  rw [BitVec.toNat_or, BitVec.toNat_shiftLeft, BitVec.toNat_setWidth, BitVec.toNat_ofNat, BitVec.toNat_ofNat,
    Nat.mod_eq_of_lt (a := rot.toNat) (by omega), Nat.mod_eq_of_lt (a := rot.toNat <<< 16) (by omega),
    Nat.mod_eq_of_lt (a := k.val) (by omega), ← hor, hshift, Nat.mod_eq_of_lt (by omega), Nat.mul_comm]

/-- ROTLD at block k, wherever the sequencer stood before. -/
theorem rotld_seek_spec {s : State} {k : Fin 12} {rot : BitVec 16} (hrot : s.work.rot k = rot) :
    rotld (s.seek .rotld k 0 0) = ({ s with
      out := s.out ++ (if rot.toNat ≤ 35999 then [] else [.diag 4 (BitVec.ofNat 32 (65536 * rot.toNat + k.val))])
      work := { s.work with b := s.work.b.set k (if rot.toNat ≤ 35999 then rot else 35999) } } : State).seek .rotld k 0 0 := by
  have hseek : (s.seek .rotld k 0 0).work.rot (s.seek .rotld k 0 0).work.k = rot := hrot
  rw [rotld_spec, hseek, rotation_info_eq_ofNat]
  by_cases h : rot.toNat ≤ 35999
  · rw [if_neg (not_lt.2 h), if_neg (not_lt.2 h), if_pos h, if_pos h]; rfl
  · rw [if_pos (not_le.1 h), if_pos (not_le.1 h), if_neg h, if_neg h]; rfl

/-! ### A block of either bank -/

/-- R152, R153: a block with a known header that continues the alternation passes both checks. -/
theorem checkBlock_of_passes {s : State} {k : Fin 12} {hdr : BitVec 16} (hheader : s.work.header k = hdr)
    (hbank : hdr = s.cfg.bankUpper ∨ hdr = s.cfg.bankLower) (halt : k = 0 ∨ s.work.hdrPrev ≠ hdr) :
    checkBlock s k = { s with work := { s.work with
      phase := .valAlt, k := k, j := 0, c := 0, hdr := hdr, hdrPrev := hdr } } := by
  have hknown : ¬ (hdr ≠ s.cfg.bankUpper ∧ hdr ≠ s.cfg.bankLower) := by tauto
  have hnew : ¬ (0 < k.val ∧ hdr = s.work.hdrPrev) := by
    rintro ⟨hk, rfl⟩
    rcases halt with rfl | hne
    · exact absurd hk (lt_irrefl _)
    · exact hne rfl
  rw [checkBlock_spec, hheader, if_neg hknown, if_neg hnew]

/-- R62, R69: the bytes of a block at their place. -/
def State.withBlockBytes (s : State) (hdr rot : BitVec 16) (rd : Vector Reading 32) : State :=
  { s with work := { s.work with pkt := Memory.writeAll s.work.pkt (100 * s.work.k.val) (blockBytes hdr rot rd) } }

/-- R95, R161: what a block leaves before its readings are read: its bytes, its header, its rotation, and the report of a rotation
out of range. -/
def State.withBlock (s : State) (hdr rot : BitVec 16) (rd : Vector Reading 32) : State :=
  { s with
    out := s.out ++ (if rot.toNat ≤ 35999 then [] else [.diag 4 (BitVec.ofNat 32 (65536 * rot.toNat + s.work.k.val))])
    work := { (s.withBlockBytes hdr rot rd).work with
      hdr := hdr, hdrPrev := hdr
      b := s.work.b.set s.work.k (if rot.toNat ≤ 35999 then rot else 35999) } }

/-- The checks passed and ROTLD done. -/
theorem rotld_checkBlock {s : State} {hdr : BitVec 16} (rot : BitVec 16) (rd : Vector Reading 32)
    (hm : Memory.wf s.work.pkt = true) (hbank : hdr = s.cfg.bankUpper ∨ hdr = s.cfg.bankLower)
    (halt : s.work.k = 0 ∨ s.work.hdrPrev ≠ hdr) :
    (checkBlock (s.withBlockBytes hdr rot rd) s.work.k).busy = true ∧
      rotld ((checkBlock (s.withBlockBytes hdr rot rd) s.work.k).seek .rotld s.work.k 0 0) =
        (s.withBlock hdr rot rd).seek .rotld s.work.k 0 0 := by
  rw [checkBlock_of_passes (s := s.withBlockBytes hdr rot rd) (header_of_block hm rfl) hbank halt]
  exact ⟨rfl, rotld_seek_spec (rot_of_block hm rfl)⟩

/-- R160: a block that passes its checks leaves the state of `State.withBlock` with its readings in the Firing file. -/
theorem placeBlock_spec {s : State} {hdr : BitVec 16} (rot : BitVec 16) (rd : Vector Reading 32)
    (hm : Memory.wf s.work.pkt = true) (hbank : hdr = s.cfg.bankUpper ∨ hdr = s.cfg.bankLower)
    (halt : s.work.k = 0 ∨ s.work.hdrPrev ≠ hdr) :
    ∃ t, ReadingsDone (s.withBlock hdr rot rd) s.work.k blockReadings t ∧ placeBlock s hdr rot rd =
      { s.withBlock hdr rot rd with work := { (s.withBlock hdr rot rd).work with fir := t.work.fir } } := by
  obtain ⟨hbusy, hrotld⟩ := rotld_checkBlock rot rd hm hbank halt
  have hdone := readingsDone_foldl (readingsDone_nil (s.withBlock hdr rot rd) .rotld s.work.k 0 0) blockReadings
  rw [← hrotld, ← decodeBlockFields_eq, List.nil_append] at hdone
  exact ⟨_, hdone, (if_pos hbusy).trans (hdone.frame s.work)⟩

/-- Settles O48: both banks by `placeBlock_spec`, the bytes by `Memory.read_writeAll`, the readings by what they are read of. -/
theorem blocksAreCheckedAndRead : Obligations.BlocksAreCheckedAndRead := by
  intro s rot rd hm i hdr hi halt
  have hbank : hdr = s.cfg.bankUpper ∨ hdr = s.cfg.bankLower := hi.imp And.right And.right
  have hexec : exec i s = .next (placeBlock s hdr rot rd) := by
    rcases hi with ⟨rfl, rfl⟩ | ⟨rfl, rfl⟩ <;> rfl
  obtain ⟨t, hdone, hplaced⟩ := placeBlock_spec rot rd hm hbank halt
  refine ⟨_, hexec.trans (congrArg _ hplaced), rfl, ?bytes, ?rotation, ?rotations, ?readings, hdone.azimuths, ?others⟩
  case bytes =>
    intro a
    have hbytes := Memory.read_writeAll hm (blockBytes_inside s.work.k hdr rot rd) a
    rwa [blockBytes_length] at hbytes
  case rotation =>
    refine (congrArg BitVec.toNat (getElem_set_fin _ _ _ _)).trans ?_
    rw [if_pos rfl]
    split
    next h => exact (Nat.min_eq_left h).symm
    next h => exact (Nat.min_eq_right (a := rot.toNat) (b := 35999) (by omega)).symm
  case rotations =>
    intro k hk
    exact (getElem_set_fin _ _ _ _).trans (if_neg hk.symm)
  case readings =>
    intro j c r hr
    have hread := hdone.read j c (mem_blockReadings j c)
    rwa [rawDist_of_block hm rfl hr, rawInt_of_block hm rfl hr] at hread
  case others =>
    intro g h0 h1
    refine hdone.others g fun j => ?_
    match j with
    | 0 => exact h0.symm
    | 1 => exact h1.symm

end Sys2Proof.Machine
end

section
/-! PROOFS for `40_host_commands.md`: the commands that are answered at once: CFGWR, INIT, SETCH, the reserved opcodes (R131, R132,
R134, R135), and a RECV that is dropped before its packet is read (R133, R151, R154). -/

namespace Sys2Proof.Machine

/-! ### The end of a command -/

theorem doneWith_endCommand (s : State) : s.endCommand.DoneWith s := ⟨rfl, rfl⟩

/-- R242: a command that ends with a report leaves the event and nothing else. -/
theorem doneWith_raise {s : State} {c : Cause} (hclass : causeClass c = .endsCommand) {info : BitVec 32}
    (hinfo : s.info c = info) : (s.raise c).DoneWith { s with out := s.out ++ [.diag c.code info] } := by
  rw [raise_endsCommand hclass, hinfo]
  exact ⟨rfl, rfl⟩

/-- R230: OP and A of the command word in hand as one number. -/
theorem info_badCmd_accept (s : State) (op : BitVec 4) (a : BitVec 12) (d : BitVec 32) :
    (s.accept (cmdWord op a d)).info .badCmd = BitVec.ofNat 32 (4096 * op.toNat + a.toNat) := by
  have hop := op.isLt
  have ha := a.isLt
  have hor := Nat.shiftLeft_add_eq_or_of_lt ha op.toNat
  have hshift : op.toNat <<< 12 = op.toNat * 4096 := Nat.shiftLeft_eq _ _
  simp only [State.info, accept_work, cmdOp_cmdWord, cmdA_cmdWord]
  apply BitVec.eq_of_toNat_eq
  rw [BitVec.toNat_or, BitVec.toNat_shiftLeft, BitVec.toNat_setWidth, BitVec.toNat_setWidth, BitVec.toNat_ofNat,
    Nat.mod_eq_of_lt (a := op.toNat) (by omega), Nat.mod_eq_of_lt (a := a.toNat) (by omega),
    Nat.mod_eq_of_lt (a := op.toNat <<< 12) (by omega), ← hor]
  omega

/-- R230: OP of the command word in hand. -/
theorem info_cfgLocked_accept (s : State) (op : BitVec 4) (a : BitVec 12) (d : BitVec 32) :
    (s.accept (cmdWord op a d)).info .cfgLocked = op.setWidth 32 := by
  simp only [State.info, accept_work, cmdOp_cmdWord]

/-! ### CFGWR and INIT -/

/-- R131: an address above 8 names no register. -/
theorem cfgwr_badAddress {s : State} (hmode : s.mode = .unconfigured) {a : BitVec 12} (ha : 8 < a.toNat) (d : BitVec 32) :
    cfgwr s a d = s.raise .badCmd := (if_neg (not_not.2 hmode)).trans (if_pos ha)

/-- R131: the register that takes the data word is all that changes. -/
theorem doneWith_cfgwr {s u : State} (hmode : s.mode = .unconfigured) {a : BitVec 12} (ha : a.toNat ≤ 8) {d : BitVec 32}
    (hwrite : writeConfig s a d = { u with work := s.work }) : (cfgwr s a d).DoneWith u := by
  have hcfgwr : cfgwr s a d = (writeConfig s a d).endCommand := (if_neg (not_not.2 hmode)).trans (if_neg (not_lt.2 ha))
  rw [hcfgwr, hwrite]
  exact ⟨rfl, rfl⟩

/-- Settles O10: the mode check, the address check, and for each of the nine addresses the branch of `writeConfig` it takes. -/
theorem cfgwrWritesOrReports : Obligations.CfgwrWritesOrReports := by
  intro s a d
  refine ⟨cfgwr (s.accept (cmdWord 1 a d)) a d, rfl, fun hmode => ?locked, fun hmode ha => ?unnamed, fun hmode => ?write⟩
  case locked =>
    rw [cfgwr_locked (s := s.accept _) hmode]
    exact doneWith_raise rfl (info_cfgLocked_accept s 1 a d)
  case unnamed =>
    rw [cfgwr_badAddress (s := s.accept _) hmode ha]
    exact doneWith_raise rfl (info_badCmd_accept s 1 a d)
  case write =>
    refine ⟨?_, ?_, ?_, ?_, ?_, ?_, ?_, ?_, ?_⟩ <;>
    · intro ha
      refine doneWith_cfgwr (s := s.accept _) hmode (by omega) ?_
      rw [BitVec.setWidth_eq_extractLsb' (by decide), writeConfig, ha]
      rfl

/-- R132: the errors INIT finds, as the number it reports. -/
theorem configErrors_eq (s : State) : s.configErrors =
    (if s.maxRange.toNat < s.minRange.toNat then 1 else 0) + (if s.distRes = 0 then 2 else 0) := by
  have hrange : s.minRange > s.maxRange ↔ s.maxRange.toNat < s.minRange.toNat := BitVec.lt_def
  unfold State.configErrors
  rw [if_congr hrange rfl rfl]
  split <;> split <;> rfl

theorem initialise_of_free {s : State} (hmode : s.mode = .unconfigured) (h : s.configErrors = 0) :
    initialise s = ({ s with mode := .run } : State).endCommand :=
  (if_neg (not_not.2 hmode)).trans (if_neg (not_not.2 h))

theorem initialise_of_errors {s : State} (hmode : s.mode = .unconfigured) (h : s.configErrors ≠ 0) :
    initialise s = s.raise .configError := (if_neg (not_not.2 hmode)).trans (if_pos h)

/-- Settles O11: the mode check, then the errors INIT finds; the number it reports is `configErrors_eq`. -/
theorem initStartsOrFails : Obligations.InitStartsOrFails := by
  intro s a d
  have hzero : (s.accept (cmdWord 2 a d)).configErrors = 0 ↔ s.minRange ≤ s.maxRange ∧ 1 ≤ s.distRes.toNat :=
    configErrors_eq_zero_iff
  refine ⟨initialise (s.accept (cmdWord 2 a d)), rfl, fun hmode => ?locked, fun hmode hrange hres => ?start,
    fun hmode herror => ?fail⟩
  case locked =>
    rw [initialise_locked (s := s.accept _) hmode]
    exact doneWith_raise rfl (info_cfgLocked_accept s 2 a d)
  case start =>
    have hfree : (s.accept (cmdWord 2 a d)).configErrors = 0 :=
      hzero.2 ⟨hrange, Nat.one_le_iff_ne_zero.2 fun h => hres (BitVec.eq_of_toNat_eq h)⟩
    rw [initialise_of_free (s := s.accept _) hmode hfree]
    exact doneWith_endCommand _
  case fail =>
    have herrors : (s.accept (cmdWord 2 a d)).configErrors ≠ 0 := fun h => by
      obtain ⟨hrange, hres⟩ := hzero.1 h
      rcases herror with hlt | hnone
      · exact absurd (BitVec.le_def.1 hrange) (not_le.2 hlt)
      · rw [hnone] at hres; exact absurd hres (by decide)
    rw [initialise_of_errors (s := s.accept _) hmode herrors, raise_fatal rfl]
    have hinfo : (s.accept (cmdWord 2 a d)).info .configError = _ := configErrors_eq (s.accept (cmdWord 2 a d))
    rw [hinfo]
    exact ⟨rfl, rfl⟩

/-! ### SETCH and the reserved opcodes -/

/-- Settles O12: the two branches of `setChannel_spec`. -/
theorem setchSelectsChannel : Obligations.SetchSelectsChannel := by
  intro s a d
  refine ⟨_, congrArg Host.Outcome.next (setChannel_spec (s.accept (cmdWord 4 a d)) a), fun ha => ?_, fun ha => ?_⟩
  · rw [if_pos ha]; exact ⟨rfl, rfl⟩
  · rw [if_neg (not_le.2 ha)]; exact ⟨rfl, rfl⟩

/-- Settles O13: each of the twelve rows raises BAD_CMD with its own opcode in hand. -/
theorem reservedOpcodesOnlyReport : Obligations.ReservedOpcodesOnlyReport := by
  intro s a d reports
  have hreports (op : BitVec 4) {i : Instr} (hi : exec i s = .next (reserved (s.accept (cmdWord op a d)))) :
      reports op.toNat i := ⟨_, hi, doneWith_raise rfl (info_badCmd_accept s op a d)⟩
  exact ⟨hreports 0 rfl, hreports 5 rfl, hreports 6 rfl, hreports 7 rfl, hreports 8 rfl, hreports 9 rfl, hreports 10 rfl,
    hreports 11 rfl, hreports 12 rfl, hreports 13 rfl, hreports 14 rfl, hreports 15 rfl⟩

/-! ### RECV that reads nothing -/

/-- R133, R245: RECV outside RUN. -/
theorem receive_notRunning {s : State} (h : s.mode ≠ .run) (len : BitVec 12) (payload : List Byte) :
    receive s len payload = s.raise .notRunning := if_pos h

/-- R133: RECV in RUN. -/
theorem receive_of_run {s : State} (h : s.mode = .run) (len : BitVec 12) (payload : List Byte) : receive s len payload =
    if (validate (s.loadPacket len payload)).busy then processPacket (validate (s.loadPacket len payload))
    else validate (s.loadPacket len payload) := if_neg (not_not.2 h)

/-- R151, R154: a packet of another length fails VAL.SIZE, and no block of it is looked at. -/
theorem validate_of_wrongLength {s : State} (h : s.work.pktLen.toNat ≠ packetBytes) : validate s =
    { s with out := s.out ++ [.diag 1 (s.work.pktLen.setWidth 32)], work := Work.idle } := by
  have hsize : valSize (s.seek .valSize 0 0 0) =
      { s with out := s.out ++ [.diag 1 (s.work.pktLen.setWidth 32)], work := Work.idle } :=
    (valSize_spec _).trans (if_neg h)
  unfold validate
  rw [hsize]
  exact foldl_checkBlock_idle blocks rfl

/-- Settles O14: outside RUN the mode check reports, in RUN VAL.SIZE; neither looks at the payload. -/
theorem recvDropsWithoutReading : Obligations.RecvDropsWithoutReading := by
  intro s len d payload hdrop
  have hlocked {m : Mode} (hmode : s.mode = m) (hm : m ≠ .run) : (receive (s.accept (cmdWord 3 len d)) len payload).DoneWith
      { s with out := s.out ++ [.diag 6 m.code] } := by
    rw [receive_notRunning (s := s.accept _) (hmode ▸ hm)]
    exact doneWith_raise (s := s.accept _) rfl (congrArg Mode.code hmode)
  refine ⟨receive (s.accept (cmdWord 3 len d)) len payload, rfl, fun hmode => hlocked hmode Mode.noConfusion,
    fun hmode => hlocked hmode Mode.noConfusion, fun hmode => ?_⟩
  have hlen : len.toNat ≠ packetBytes := hdrop.resolve_left (not_not.2 hmode)
  have hinfo : BitVec.ofNat 32 len.toNat = len.setWidth 32 := BitVec.ofNat_toNat 32 len
  rw [receive_of_run (s := s.accept _) hmode, validate_of_wrongLength (s := (s.accept _).loadPacket len payload) hlen,
    if_neg Bool.noConfusion, hinfo]
  exact ⟨rfl, rfl⟩

end Sys2Proof.Machine
end

section
/-! PROOFS for `40_host_commands.md`, first layer of R133 on a valid packet: what the packet buffer says of the packet's bytes, the
validator's loop (R150), and the decoder's loops one at a time (R160 to R167). -/

namespace Sys2Proof.Machine

/-! ### The packet's bytes in the buffer -/

/-- R44: the packet buffer holds the bytes of the packet. -/
def Work.Holds (w : Work) (p : List Byte) : Prop := ∀ a < packetBytes, Memory.read w.pkt a = p.getD a 0

theorem holds_loadPacket (s : State) {p : List Byte} (hp : p.length = packetBytes) : (s.loadPacket 1206 p).work.Holds p :=
  fun a _ => read_loadPacket s hp a

section
variable {w : Work} {p : List Byte} (h : w.Holds p)
include h

/-- R65: a two-byte field at an address. -/
theorem Work.Holds.twoBytes {a : Nat} (ha : a + 1 < packetBytes) :
    (Memory.read w.pkt a).toNat + 256 * (Memory.read w.pkt (a + 1)).toNat = byteOf p a + 256 * byteOf p (a + 1) := by
  rw [h a (by omega), h (a + 1) ha]; rfl

/-- R95. -/
theorem Work.Holds.header (k : Fin 12) : (w.header k).toNat = headerOf p k.val := by
  have hk := k.isLt
  exact (header_toNat w k).trans (h.twoBytes (by unfold packetBytes; omega))

/-- R96. -/
theorem Work.Holds.rot (k : Fin 12) : (w.rot k).toNat = rotationOf p k.val := by
  have hk := k.isLt
  exact (rot_toNat w k).trans (h.twoBytes (by unfold packetBytes; omega))

/-- R97. -/
theorem Work.Holds.rawDist (k : Fin 12) (j : Fin 2) (c : Fin 16) : (w.rawDist k j c).toNat =
    byteOf p (readingOffset k.val j.val c.val) + 256 * byteOf p (readingOffset k.val j.val c.val + 1) := by
  have hinside := readingAt_inside k j c
  exact (rawDist_toNat w k j c).trans (h.twoBytes (by omega))

/-- R98. -/
theorem Work.Holds.rawInt (k : Fin 12) (j : Fin 2) (c : Fin 16) :
    w.rawInt k j c = p.getD (readingOffset k.val j.val c.val + 2) 0 := by
  have hinside := readingAt_inside k j c
  exact (rawInt_eq w k j c).trans (h _ (by omega))

/-- R99. -/
theorem Work.Holds.tsField : w.tsField.toNat = deviceTimeOf p := by
  rw [tsField_toNat, h 1200 (by decide), h 1201 (by decide), h 1202 (by decide), h 1203 (by decide)]
  rfl

/-- R100. -/
theorem Work.Holds.factoryField : w.factoryField.toNat = factoryOf p :=
  (factoryField_toNat w).trans (h.twoBytes (by decide))

end

/-! ### Validator -/

theorem blocks_take_succ : ∀ k : Fin 12, blocks.take (k.val + 1) = blocks.take k.val ++ [k] := by decide

/-- R152, R153: a block of the packet that passes both checks leaves the command in progress, its header recorded. -/
theorem checkBlock_of_blockPasses {s : State} {p : List Byte} (h : s.work.Holds p) {k : Fin 12}
    (hpass : blockPasses s.cfg p k.val) (hprev : 0 < k.val → s.work.hdrPrev.toNat = headerOf p (k.val - 1)) :
    checkBlock s k = { s with work := { s.work with
      phase := .valAlt, k := k, j := 0, c := 0, hdr := s.work.header k, hdrPrev := s.work.header k } } := by
  obtain ⟨hknown, halternates⟩ := hpass
  refine checkBlock_of_passes rfl ?_ ?_
  · exact hknown.imp (fun he => BitVec.eq_of_toNat_eq ((h.header k).trans he))
      (fun he => BitVec.eq_of_toNat_eq ((h.header k).trans he))
  · refine or_iff_not_imp_left.2 fun hk heq => ?_
    have hpos : 0 < k.val := Nat.pos_of_ne_zero fun h0 => hk (Fin.ext h0)
    exact halternates hpos (by rw [← h.header k, ← heq, hprev hpos])

/-- R150: the first n blocks pass: the command is still in progress and nothing but the transient state has been written. -/
theorem checkBlocks_of_blockPasses {s : State} {p : List Byte} (hbusy : s.busy = true) (h : s.work.Holds p) {n : Nat}
    (hn : n ≤ 12) (hpass : ∀ i < n, blockPasses s.cfg p i) : ∃ w : Work,
    (blocks.take n).foldl (fun s k => if s.busy then checkBlock s k else s) s = { s with work := w } ∧
    w.phase ≠ .idle ∧ w.pkt = s.work.pkt ∧ (0 < n → w.hdrPrev.toNat = headerOf p (n - 1)) := by
  induction n with
  | zero => exact ⟨s.work, rfl, busy_iff.1 hbusy, rfl, fun h0 => absurd h0 (lt_irrefl 0)⟩
  | succ n ih =>
    obtain ⟨w, hfold, hphase, hpkt, hprev⟩ := ih (by omega) fun i hi => hpass i (by omega)
    have hholds : w.Holds p := by unfold Work.Holds; rw [hpkt]; exact h
    have hcheck := checkBlock_of_blockPasses (s := { s with work := w }) hholds (k := ⟨n, hn⟩) (hpass n (by omega)) hprev
    rw [blocks_take_succ ⟨n, hn⟩, List.foldl_append, hfold, List.foldl_cons, List.foldl_nil,
      if_pos (busy_iff.2 hphase), hcheck]
    exact ⟨_, rfl, Phase.noConfusion, hpkt, fun _ => hholds.header ⟨n, hn⟩⟩

/-- R150, R155: a valid packet passes VALIDATE. -/
theorem validate_of_packetValid {s : State} {p : List Byte} (hlen : s.work.pktLen.toNat = packetBytes) (h : s.work.Holds p)
    (hvalid : packetValid s.cfg p) : ∃ w : Work,
    validate s = { s with work := w } ∧ w.phase ≠ .idle ∧ w.pkt = s.work.pkt := by
  have hsize : valSize (s.seek .valSize 0 0 0) = s.seek .valSize 0 0 0 := (valSize_spec _).trans (if_pos hlen)
  obtain ⟨w, hfold, hphase, hpkt, -⟩ := checkBlocks_of_blockPasses (s := s.seek .valSize 0 0 0) rfl h le_rfl hvalid.2
  exact ⟨w, (congrArg (List.foldl _ · blocks) hsize).trans hfold, hphase, hpkt⟩

/-! ### Decoder: the bases -/

theorem fin_two_cases : ∀ j : Fin 2, j = 0 ∨ j = 1 := by decide

/-- What DECODE writes (R160): the events it adds to, the trailer's fields, B, D, DELTA and the Firing file. -/
structure Decoding where
  out : List Event
  ts : BitVec 32
  factory : BitVec 16
  b : Vector (BitVec 16) 12
  d : Vector (BitVec 16) 12
  delta : Vector Az 24
  fir : Vector Firing 24

def State.decoding (s : State) : Decoding :=
  ⟨s.out, s.work.ts, s.work.factory, s.work.b, s.work.d, s.work.delta, s.work.fir⟩

def State.withDecoding (s : State) (x : Decoding) : State :=
  { s with out := x.out, work := { s.work with
      ts := x.ts, factory := x.factory, b := x.b, d := x.d, delta := x.delta, fir := x.fir } }

/-- R42: DECODE has gone from `s` to `t`, having written `x`, wherever the sequencer stands. -/
def DecodedTo (s : State) (x : Decoding) (t : State) : Prop := ∃ p k j c, t = (s.withDecoding x).seek p k j c

/-! What one operation of DECODE writes. -/

def State.withRotations (s : State) (o : List Event) (b : Vector (BitVec 16) 12) : State :=
  { s with out := o, work := { s.work with b := b } }

def State.withAdvances (s : State) (d : Vector (BitVec 16) 12) : State := { s with work := { s.work with d := d } }

def State.withDeltas (s : State) (delta : Vector Az 24) : State := { s with work := { s.work with delta := delta } }

section
variable {s t : State} {x : Decoding} (h : DecodedTo s x t)
include h

theorem DecodedTo.out : t.out = x.out := by obtain ⟨q, k, j, c, rfl⟩ := h; rfl

theorem DecodedTo.cfg : t.cfg = s.cfg := by obtain ⟨q, k, j, c, rfl⟩ := h; rfl

theorem DecodedTo.distRes : t.distRes = s.distRes := by obtain ⟨q, k, j, c, rfl⟩ := h; rfl

theorem DecodedTo.pkt : t.work.pkt = s.work.pkt := by obtain ⟨q, k, j, c, rfl⟩ := h; rfl

theorem DecodedTo.b : t.work.b = x.b := by obtain ⟨q, k, j, c, rfl⟩ := h; rfl

theorem DecodedTo.d : t.work.d = x.d := by obtain ⟨q, k, j, c, rfl⟩ := h; rfl

theorem DecodedTo.delta : t.work.delta = x.delta := by obtain ⟨q, k, j, c, rfl⟩ := h; rfl

theorem DecodedTo.fir : t.work.fir = x.fir := by obtain ⟨q, k, j, c, rfl⟩ := h; rfl

theorem DecodedTo.holds {p : List Byte} (hp : s.work.Holds p) : t.work.Holds p := by
  unfold Work.Holds; rw [h.pkt]; exact hp

theorem DecodedTo.seek (q : Phase) (k : Fin 12) (j : Fin 2) (c : Fin 16) : DecodedTo s x (t.seek q k j c) := by
  obtain ⟨q', k', j', c', rfl⟩ := h
  exact ⟨q, k, j, c, rfl⟩

theorem DecodedTo.withRotations (o : List Event) (b : Vector (BitVec 16) 12) :
    DecodedTo s { x with out := o, b := b } (t.withRotations o b) := by
  obtain ⟨q, k, j, c, rfl⟩ := h
  exact ⟨q, k, j, c, rfl⟩

theorem DecodedTo.withAdvances (d : Vector (BitVec 16) 12) : DecodedTo s { x with d := d } (t.withAdvances d) := by
  obtain ⟨q, k, j, c, rfl⟩ := h
  exact ⟨q, k, j, c, rfl⟩

theorem DecodedTo.withDeltas (delta : Vector Az 24) : DecodedTo s { x with delta := delta } (t.withDeltas delta) := by
  obtain ⟨q, k, j, c, rfl⟩ := h
  exact ⟨q, k, j, c, rfl⟩

theorem DecodedTo.setFiring (g : Fin 24) (f : Firing) : DecodedTo s { x with fir := x.fir.set g f } (t.setFiring g f) := by
  obtain ⟨q, k, j, c, rfl⟩ := h
  exact ⟨q, k, j, c, rfl⟩

end

/-- R161: the reports of the out-of-range rotations of the blocks listed. -/
def reportsOn (p : List Byte) (l : List (Fin 12)) : List Event :=
  (l.filter fun k => decide (35999 < rotationOf p k.val)).map fun k =>
    .diag 4 (BitVec.ofNat 32 (65536 * rotationOf p k.val + k.val))

theorem reportsOn_append_singleton (p : List Byte) (l : List (Fin 12)) (k : Fin 12) : reportsOn p (l ++ [k]) = reportsOn p l ++
    (if rotationOf p k.val ≤ 35999 then [] else [.diag 4 (BitVec.ofNat 32 (65536 * rotationOf p k.val + k.val))]) := by
  unfold reportsOn
  rw [List.filter_append, List.map_append]
  by_cases h : rotationOf p k.val ≤ 35999
  · simp [h, not_lt.2 h]
  · simp [h, not_le.1 h]

/-- R161: ROTLD at block k, wherever the sequencer stood before. -/
theorem rotld_seek_eq {t : State} {p : List Byte} (h : t.work.Holds p) (k : Fin 12) : ∃ v : BitVec 16,
    v.toNat = clampedOf p k.val ∧
    rotld (t.seek .rotld k 0 0) = (t.withRotations (t.out ++ (if rotationOf p k.val ≤ 35999 then []
      else [.diag 4 (BitVec.ofNat 32 (65536 * rotationOf p k.val + k.val))])) (t.work.b.set k v)).seek .rotld k 0 0 := by
  have hrotld := rotld_seek_spec (s := t) (k := k) (rot := t.work.rot k) rfl
  rw [h.rot] at hrotld
  refine ⟨_, ?_, hrotld⟩
  unfold clampedOf
  split
  next hle => rw [h.rot, Nat.min_eq_left hle]
  next hgt => exact (Nat.min_eq_right (not_le.1 hgt).le).symm

/-- R161: ROTLD over the blocks listed. -/
theorem foldl_rotld {s t : State} {x : Decoding} {p : List Byte} (hp : s.work.Holds p) (h : DecodedTo s x t)
    (l : List (Fin 12)) : ∃ b : Vector (BitVec 16) 12,
    DecodedTo s { x with out := x.out ++ reportsOn p l, b := b } (l.foldl (fun t k => rotld (t.seek .rotld k 0 0)) t) ∧
    ∀ k ∈ l, b[k].toNat = clampedOf p k.val := by
  induction l using List.reverseRecOn with
  | nil =>
    refine ⟨x.b, ?_, fun _ hk => absurd hk List.not_mem_nil⟩
    rw [reportsOn, List.filter_nil, List.map_nil, List.append_nil]
    exact h
  | append_singleton l k ih =>
    obtain ⟨b, hfold, hb⟩ := ih
    obtain ⟨v, hv, hnext⟩ := rotld_seek_eq (hfold.holds hp) k
    rw [List.foldl_append, List.foldl_cons, List.foldl_nil, hnext, reportsOn_append_singleton, ← List.append_assoc,
      hfold.out, hfold.b]
    refine ⟨b.set k v, (hfold.withRotations _ _).seek _ _ _ _, fun i hi => ?_⟩
    rw [getElem_set_fin]
    by_cases hik : k = i
    · rw [if_pos hik, hv, hik]
    · rw [if_neg hik]
      exact hb i (by simpa [Ne.symm hik] using hi)

/-- R162: DELTA at block k, wherever the sequencer stood before, from the clamped rotations and, at the last block, from the
advance before it. -/
theorem delta_seek_spec {t : State} {p : List Byte} (hb : ∀ k : Fin 12, t.work.b[k].toNat = clampedOf p k.val) (k : Fin 12)
    (hlast : k.val = 11 → t.work.d[10].toNat = advanceOf p 10) : ∃ v : BitVec 16, v.toNat = advanceOf p k.val ∧
    delta (t.seek .delta k 0 0) = (t.withAdvances (t.work.d.set k v)).seek .delta k 0 0 := by
  obtain ⟨v, hdelta, hnext, hrepeat⟩ := delta_spec (t.seek .delta k 0 0)
  refine ⟨v, ?_, hdelta⟩
  have hle (i : Nat) : clampedOf p i ≤ 35999 := Nat.min_le_right _ _
  by_cases h12 : k.val + 1 < 12
  · have hthen : t.work.b[k.val + 1].toNat = clampedOf p (k.val + 1) := hb ⟨k.val + 1, h12⟩
    have hv : (v.toNat : Int) = ((clampedOf p (k.val + 1) : Int) - clampedOf p k.val) % 36000 := by
      rw [← hthen, ← hb k]
      exact hnext h12
    have := hle k.val
    have := hle (k.val + 1)
    rw [advanceOf, if_pos (by omega)]
    omega
  · have h11 : k.val = 11 := by omega
    rw [hrepeat h12]
    refine (hlast h11).trans ?_
    rw [h11, advanceOf, advanceOf, if_pos (by decide), if_neg (by decide)]

/-- R162: DELTA over the first n blocks. -/
theorem foldl_delta {s t : State} {x : Decoding} {p : List Byte} (hb : ∀ k : Fin 12, x.b[k].toNat = clampedOf p k.val)
    (h : DecodedTo s x t) {n : Nat} (hn : n ≤ 12) : ∃ d : Vector (BitVec 16) 12,
    DecodedTo s { x with d := d } ((blocks.take n).foldl (fun t k => delta (t.seek .delta k 0 0)) t) ∧
    ∀ k : Fin 12, k.val < n → d[k].toNat = advanceOf p k.val := by
  induction n with
  | zero => exact ⟨x.d, h, fun _ hk => absurd hk (Nat.not_lt_zero _)⟩
  | succ n ih =>
    obtain ⟨d, hfold, hd⟩ := ih (by omega)
    have hlast : n = 11 → d[10].toNat = advanceOf p 10 := fun h11 => hd 10 (by rw [h11]; decide)
    obtain ⟨v, hv, hnext⟩ := delta_seek_spec (by rw [hfold.b]; exact hb) ⟨n, hn⟩ (by rw [hfold.d]; exact hlast)
    rw [blocks_take_succ ⟨n, hn⟩, List.foldl_append, List.foldl_cons, List.foldl_nil, hnext, hfold.d]
    refine ⟨d.set n v, (hfold.withAdvances _).seek _ _ _ _, fun i hi => ?_⟩
    rw [getElem_set_fin d ⟨n, hn⟩]
    by_cases hin : ⟨n, hn⟩ = i
    · rw [if_pos hin, hv, ← hin]
    · rw [if_neg hin]
      exact hd i (by have : n ≠ i.val := fun h => hin (Fin.ext h); omega)

/-- R163: FIRBASE at block k, wherever the sequencer stood before. -/
theorem decodedTo_firbase {s t : State} {x : Decoding} {p : List Byte}
    (hb : ∀ k : Fin 12, x.b[k].toNat = clampedOf p k.val) (hd : ∀ k : Fin 12, x.d[k].toNat = advanceOf p k.val)
    (h : DecodedTo s x t) (k : Fin 12) : ∃ fir : Vector Firing 24,
    DecodedTo s { x with fir := fir } (firbase (t.seek .firbase k 0 0)) ∧
    (∀ j : Fin 2, fir[firingIndex k j].fa.toNat = baseOf p k.val j.val) ∧
    ∀ i ≠ k, ∀ j : Fin 2, fir[firingIndex i j] = x.fir[firingIndex i j] := by
  obtain ⟨f0, f1, hfirbase, -, -, hf0, hf1⟩ := firbase_spec (t.seek .firbase k 0 0)
  simp only [seek_work_k, seek_work_b, seek_work_d, h.b, h.d, hb, hd] at hfirbase hf0 hf1
  have hentry (g : Fin 24) : ((x.fir.set (firingIndex k 0) f0).set (firingIndex k 1) f1)[g] =
      if firingIndex k 1 = g then f1 else if firingIndex k 0 = g then f0 else x.fir[g] := by
    rw [getElem_set_fin, getElem_set_fin]
  have hclamped : clampedOf p k.val ≤ 35999 := Nat.min_le_right _ _
  rw [hfirbase]
  refine ⟨_, ((h.seek .firbase k 0 0).setFiring (firingIndex k 0) f0).setFiring (firingIndex k 1) f1,
    Fin.forall_fin_two.2 ⟨?_, ?_⟩, fun i hi j' => ?_⟩
  · rw [hentry, if_neg (firingIndex_ne k).symm, if_pos rfl, hf0, baseOf]
    simp only [Fin.val_zero]
    omega
  · rw [hentry, if_pos rfl, hf1]
    rfl
  · have hother (j : Fin 2) : firingIndex k j ≠ firingIndex i j' := fun h => hi (firingIndex_inj h).1.symm
    rw [hentry, if_neg (hother 1), if_neg (hother 0)]

/-- R163: FIRBASE over the blocks listed. -/
theorem foldl_firbase {s t : State} {x : Decoding} {p : List Byte} (hb : ∀ k : Fin 12, x.b[k].toNat = clampedOf p k.val)
    (hd : ∀ k : Fin 12, x.d[k].toNat = advanceOf p k.val) (h : DecodedTo s x t) (l : List (Fin 12)) :
    ∃ fir : Vector Firing 24,
    DecodedTo s { x with fir := fir } (l.foldl (fun t k => firbase (t.seek .firbase k 0 0)) t) ∧
    ∀ k ∈ l, ∀ j : Fin 2, fir[firingIndex k j].fa.toNat = baseOf p k.val j.val := by
  induction l using List.reverseRecOn with
  | nil => exact ⟨x.fir, h, fun _ hk => absurd hk List.not_mem_nil⟩
  | append_singleton l k ih =>
    obtain ⟨fir, hfold, hbases⟩ := ih
    obtain ⟨fir', hnext, hnew, hkept⟩ := decodedTo_firbase (x := { x with fir := fir }) hb hd hfold k
    rw [List.foldl_append]
    refine ⟨fir', hnext, fun i hi j => ?_⟩
    by_cases hik : i = k
    · rw [hik]; exact hnew j
    · rw [hkept i hik j]
      exact hbases i (by simpa [hik] using hi) j

/-- R164, the closed form: the advance from one firing to the next is half the advance of the block, whichever firing it is. -/
theorem baseOf_advance (p : List Byte) (k : Nat) :
    ((baseOf p k 1 : Int) - baseOf p k 0) % 1152000 = 16 * advanceOf p k ∧
    (k < 11 → ((baseOf p (k + 1) 0 : Int) - baseOf p k 1) % 1152000 = 16 * advanceOf p k) := by
  have hle (i : Nat) : clampedOf p i ≤ 35999 := Nat.min_le_right _ _
  have := hle k
  have := hle (k + 1)
  have hadvance : advanceOf p k < 36000 := by unfold advanceOf; split <;> exact Nat.mod_lt _ (by decide)
  unfold baseOf
  refine ⟨by omega, fun hk => ?_⟩
  have hnext : advanceOf p k = (clampedOf p (k + 1) + 36000 - clampedOf p k) % 36000 := if_pos (by omega)
  omega

/-- R164: FDELTA at one firing, wherever the sequencer stood before, from the base azimuths. -/
theorem fdelta_seek_spec {t : State} {p : List Byte}
    (hfa : ∀ (k : Fin 12) (j : Fin 2), t.work.fir[firingIndex k j].fa.toNat = baseOf p k.val j.val) (k : Fin 12) (j : Fin 2) :
    ∃ v : Az, v.toNat = 16 * advanceOf p k.val ∧ fdelta (t.seek .fdelta k j 0) =
      (t.withDeltas (t.work.delta.set (firingIndex k j) v)).seek .fdelta k j 0 := by
  obtain ⟨v, hfdelta, hnext, hlast⟩ := fdelta_spec (t.seek .fdelta k j 0)
  refine ⟨v, ?_, hfdelta⟩
  obtain ⟨hwithin, hacross⟩ := baseOf_advance p k.val
  have hbase (n : Nat) (hn : n < 24) (k j : Nat) (hk : k < 12) (hj : j < 2) (h : n = 2 * k + j) :
      t.work.fir[n].fa.toNat = baseOf p k j := by subst h; exact hfa ⟨k, hk⟩ ⟨j, hj⟩
  have hk := k.isLt
  rcases fin_two_cases j with rfl | rfl
  · have hv : (v.toNat : Int) = ((baseOf p k.val 1 : Int) - baseOf p k.val 0) % 1152000 := by
      rw [← hbase (2 * k.val + 1) (by omega) k.val 1 hk (by decide) rfl,
        ← hbase (2 * k.val) (by omega) k.val 0 hk (by decide) rfl]
      exact hnext (show 2 * k.val + 1 < 24 by omega)
    omega
  · by_cases h11 : k.val < 11
    · have hv : (v.toNat : Int) = ((baseOf p (k.val + 1) 0 : Int) - baseOf p k.val 1) % 1152000 := by
        rw [← hbase (2 * (k.val + 1)) (by omega) (k.val + 1) 0 (by omega) (by decide) rfl,
          ← hbase (2 * k.val + 1) (by omega) k.val 1 hk (by decide) rfl]
        exact hnext (show 2 * (k.val + 1) < 24 by omega)
      have := hacross h11
      omega
    · have hlast11 : k.val = 11 := by omega
      have hv : (v.toNat : Int) = ((baseOf p k.val 1 : Int) - baseOf p k.val 0) % 1152000 := by
        rw [← hbase 23 (by decide) k.val 1 hk (by decide) (by omega),
          ← hbase 22 (by decide) k.val 0 hk (by decide) (by omega)]
        exact hlast (show ¬ 2 * k.val + 1 + 1 < 24 by omega)
      omega

/-- R164: FDELTA over the firings listed. -/
theorem foldl_fdelta {s t : State} {x : Decoding} {p : List Byte}
    (hfa : ∀ (k : Fin 12) (j : Fin 2), x.fir[firingIndex k j].fa.toNat = baseOf p k.val j.val) (h : DecodedTo s x t)
    (l : List (Fin 12 × Fin 2)) : ∃ advances : Vector Az 24,
    DecodedTo s { x with delta := advances } (l.foldl (fun t kj => fdelta (t.seek .fdelta kj.1 kj.2 0)) t) ∧
    ∀ kj ∈ l, advances[firingIndex kj.1 kj.2].toNat = 16 * advanceOf p kj.1.val := by
  induction l using List.reverseRecOn with
  | nil => exact ⟨x.delta, h, fun _ hkj => absurd hkj List.not_mem_nil⟩
  | append_singleton l kj ih =>
    obtain ⟨advances, hfold, hadvances⟩ := ih
    obtain ⟨v, hv, hnext⟩ := fdelta_seek_spec (by rw [hfold.fir]; exact hfa) kj.1 kj.2
    rw [List.foldl_append, List.foldl_cons, List.foldl_nil, hnext, hfold.delta]
    refine ⟨advances.set (firingIndex kj.1 kj.2) v, (hfold.withDeltas _).seek _ _ _ _, fun i hi => ?_⟩
    rw [getElem_set_fin]
    by_cases hik : firingIndex kj.1 kj.2 = firingIndex i.1 i.2
    · rw [if_pos hik, hv, (firingIndex_inj hik).1]
    · rw [if_neg hik]
      have hne : i ≠ kj := fun h => hik (h ▸ rfl)
      exact hadvances i (by simpa [hne] using hi)

/-- R167, R161 to R164: the trailer, the rotations, the advances and the base azimuths are those of the packet. -/
structure Decoding.BasesOf (x : Decoding) (p : List Byte) : Prop where
  ts : x.ts.toNat = deviceTimeOf p
  factory : x.factory.toNat = factoryOf p
  rotations : ∀ k : Fin 12, x.b[k].toNat = clampedOf p k.val
  advances : ∀ k : Fin 12, x.d[k].toNat = advanceOf p k.val
  bases : ∀ (k : Fin 12) (j : Fin 2), x.fir[firingIndex k j].fa.toNat = baseOf p k.val j.val
  deltas : ∀ (k : Fin 12) (j : Fin 2), x.delta[firingIndex k j].toNat = 16 * advanceOf p k.val

theorem mem_firings : ∀ (k : Fin 12) (j : Fin 2), (k, j) ∈ firings := by decide

/-- R160, first half: TSLD and the four loops, each from what the one before it has written. -/
theorem decodeBases_spec {s : State} {p : List Byte} (h : s.work.Holds p) : ∃ x : Decoding,
    DecodedTo s x (decodeBases s) ∧ x.out = s.out ++ rotationReports p ∧ x.BasesOf p := by
  have htsld : DecodedTo s { s.decoding with ts := s.work.tsField, factory := s.work.factoryField }
      (tsld (s.seek .tsld 0 0 0)) := ⟨.tsld, 0, 0, 0, rfl⟩
  obtain ⟨b, hrotld, hb⟩ := foldl_rotld h htsld blocks
  replace hb (k : Fin 12) : b[k].toNat = clampedOf p k.val := hb k (List.mem_finRange k)
  obtain ⟨d, hdelta, hd⟩ := foldl_delta hb hrotld le_rfl
  rw [List.take_of_length_le (by decide)] at hdelta
  replace hd (k : Fin 12) : d[k].toNat = advanceOf p k.val := hd k k.isLt
  obtain ⟨fir, hfirbase, hfa⟩ := foldl_firbase hb hd hdelta blocks
  replace hfa (k : Fin 12) (j : Fin 2) : fir[firingIndex k j].fa.toNat = baseOf p k.val j.val := hfa k (List.mem_finRange k) j
  obtain ⟨advances, hfdelta, hadvances⟩ := foldl_fdelta hfa hfirbase firings
  exact ⟨_, hfdelta, rfl, h.tsField, h.factoryField, hb, hd, hfa, fun k j => hadvances (k, j) (mem_firings k j)⟩

/-! ### Decoder: the readings -/

/-- R165, R166: channel c of a decoded firing holds the packet's reading (k, j, c). -/
structure Firing.Reads (f : Firing) (cfg : Config) (distRes : Nat) (p : List Byte) (k : Fin 12) (j : Fin 2) (c : Fin 16) :
    Prop where
  az : f.az[c].toNat = azimuthOf cfg p k.val j.val c.val
  dist : f.dist[c].toNat = distanceOf distRes p k.val j.val c.val
  int : f.int[c] = p.getD (readingOffset k.val j.val c.val + 2) 0

/-- R165: CHDEC at reading (k, j, c), wherever the sequencer stood before. -/
theorem chdec_seek_eq (t : State) (k : Fin 12) (j : Fin 2) (c : Fin 16) : ∃ v : Len,
    v.toNat = (t.work.rawDist k j c).toNat * t.distRes.toNat ∧
    chdec (t.seek .chdec k j c) = (t.seek .chdec k j c).setFiring (firingIndex k j) { t.work.fir[firingIndex k j] with
      dist := t.work.fir[firingIndex k j].dist.set c v
      int := t.work.fir[firingIndex k j].int.set c (t.work.rawInt k j c) } := by
  obtain ⟨v, hchdec, hv⟩ := chdec_spec (t.seek .chdec k j c)
  exact ⟨v, hv, hchdec⟩

/-- R166: INTERP at reading (k, j, c), wherever the sequencer stood before. -/
theorem interp_seek_eq (t : State) (k : Fin 12) (j : Fin 2) (c : Fin 16) : ∃ a : Az,
    a.toNat = (t.work.fir[firingIndex k j].fa.toNat + correction t.cfg t.work.delta[firingIndex k j] c) % fullTurn ∧
    interp (t.seek .interp k j c) = (t.seek .interp k j c).setFiring (firingIndex k j) { t.work.fir[firingIndex k j] with
      az := t.work.fir[firingIndex k j].az.set c a } := by
  obtain ⟨a, hinterp, ha⟩ := interp_spec (t.seek .interp k j c)
  exact ⟨a, ha, hinterp⟩

/-- CHDEC and INTERP of one reading: the channel holds the reading, and the rest of the firing is kept. -/
theorem decodedTo_decodeReading {s t : State} {x : Decoding} {p : List Byte} (hp : s.work.Holds p) (hx : x.BasesOf p)
    (h : DecodedTo s x t) (k : Fin 12) (j : Fin 2) (c : Fin 16) : ∃ f : Firing,
    DecodedTo s { x with fir := x.fir.set (firingIndex k j) f } (decodeReading t k j c) ∧
    f.fa = x.fir[firingIndex k j].fa ∧ f.Reads s.cfg s.distRes.toNat p k j c ∧
    ∀ i ≠ c, f.az[i] = x.fir[firingIndex k j].az[i] ∧ f.dist[i] = x.fir[firingIndex k j].dist[i] ∧
      f.int[i] = x.fir[firingIndex k j].int[i] := by
  obtain ⟨v, hv, hchdec⟩ := chdec_seek_eq t k j c
  rw [(h.holds hp).rawDist, h.distRes] at hv
  rw [(h.holds hp).rawInt, h.fir] at hchdec
  have hread := (h.seek .chdec k j c).setFiring (firingIndex k j) { x.fir[firingIndex k j] with
    dist := x.fir[firingIndex k j].dist.set c v
    int := x.fir[firingIndex k j].int.set c (p.getD (readingOffset k.val j.val c.val + 2) 0) }
  rw [← hchdec] at hread
  obtain ⟨a, ha, hinterp⟩ := interp_seek_eq (chdec (t.seek .chdec k j c)) k j c
  rw [hread.fir, hread.cfg, hread.delta, getElem_set_fin, if_pos rfl] at ha
  rw [hread.fir, getElem_set_fin, if_pos rfl] at hinterp
  have hturned := (hread.seek .interp k j c).setFiring (firingIndex k j) { x.fir[firingIndex k j] with
    dist := x.fir[firingIndex k j].dist.set c v
    int := x.fir[firingIndex k j].int.set c (p.getD (readingOffset k.val j.val c.val + 2) 0)
    az := x.fir[firingIndex k j].az.set c a }
  rw [Vector.set_set] at hturned
  refine ⟨_, (congrArg (DecodedTo s _) hinterp).mpr hturned, rfl, ⟨?_, ?_, ?_⟩, fun i hi => ?_⟩
  · refine (congrArg BitVec.toNat (getElem_set_fin _ c c a)).trans ?_
    rw [if_pos rfl, ha, correction, hx.bases, hx.deltas]
    rfl
  · refine (congrArg BitVec.toNat (getElem_set_fin _ c c v)).trans ?_
    rw [if_pos rfl, hv]
    rfl
  · exact (getElem_set_fin _ c c _).trans (if_pos rfl)
  · have hkept {α : Type} (u : Vector α 16) (y : α) : (u.set c y)[i] = u[i] :=
      (getElem_set_fin u c i y).trans (if_neg (Ne.symm hi))
    exact ⟨hkept _ _, hkept _ _, hkept _ _⟩

/-- R160: the readings of a packet in the order they are decoded. -/
def packetReadings : List ((Fin 12 × Fin 2) × Fin 16) := firings.flatMap fun kj => channels.map fun c => (kj, c)

theorem mem_packetReadings (k : Fin 12) (j : Fin 2) (c : Fin 16) : ((k, j), c) ∈ packetReadings :=
  List.mem_flatMap.2 ⟨(k, j), mem_firings k j, List.mem_map.2 ⟨c, List.mem_finRange c, rfl⟩⟩

/-- R160: the two loops over the packet's readings are one. -/
theorem decodePacket_eq (s : State) : decodePacket s =
    packetReadings.foldl (fun t r => decodeReading t r.1.1 r.1.2 r.2) (decodeBases s) := by
  simp only [packetReadings, List.foldl_flatMap, List.foldl_map]
  rfl

/-- R165, R166: the readings listed are decoded, and every base azimuth is kept. -/
theorem foldl_decodeReading {s t : State} {x : Decoding} {p : List Byte} (hp : s.work.Holds p) (hx : x.BasesOf p)
    (h : DecodedTo s x t) (l : List ((Fin 12 × Fin 2) × Fin 16)) : ∃ fir : Vector Firing 24,
    DecodedTo s { x with fir := fir } (l.foldl (fun t r => decodeReading t r.1.1 r.1.2 r.2) t) ∧
    ({ x with fir := fir } : Decoding).BasesOf p ∧
    ∀ k j c, ((k, j), c) ∈ l → fir[firingIndex k j].Reads s.cfg s.distRes.toNat p k j c := by
  induction l using List.reverseRecOn with
  | nil => exact ⟨x.fir, h, hx, fun _ _ _ hr => absurd hr List.not_mem_nil⟩
  | append_singleton l r ih =>
    obtain ⟨fir, hfold, hbases, hreads⟩ := ih
    obtain ⟨f, hnext, hfa, hnew, hkept⟩ := decodedTo_decodeReading hp hbases hfold r.1.1 r.1.2 r.2
    rw [List.foldl_append]
    refine ⟨_, hnext, { hbases with bases := fun k j => ?_ }, fun k j c hi => ?_⟩
    · dsimp only
      rw [getElem_set_fin]
      split
      next heq =>
        obtain ⟨rfl, rfl⟩ := firingIndex_inj heq
        rw [hfa]
        exact hbases.bases _ _
      next => exact hbases.bases k j
    · have hold (hne : ((k, j), c) ≠ r) := hreads k j c (by simpa [hne] using hi)
      rw [getElem_set_fin]
      split
      next heq =>
        obtain ⟨rfl, rfl⟩ := firingIndex_inj heq
        by_cases hc : c = r.2
        · subst hc; exact hnew
        · obtain ⟨haz, hdist, hint⟩ := hkept c hc
          have hread := hold fun h => hc (congrArg Prod.snd h)
          exact ⟨by rw [haz]; exact hread.az, by rw [hdist]; exact hread.dist, by rw [hint]; exact hread.int⟩
      next hne => exact hold fun h => hne (by rw [← h])

/-- R160 to R168: DECODE in closed form: it writes the reports of the rotations and the decoded values of the packet. -/
theorem decodePacket_spec {s : State} {p : List Byte} (h : s.work.Holds p) : ∃ x : Decoding,
    DecodedTo s x (decodePacket s) ∧ x.out = s.out ++ rotationReports p ∧ x.BasesOf p ∧
    ∀ (k : Fin 12) (j : Fin 2) (c : Fin 16), x.fir[firingIndex k j].Reads s.cfg s.distRes.toNat p k j c := by
  obtain ⟨x, hdecoded, hout, hbases⟩ := decodeBases_spec h
  obtain ⟨fir, hfold, hbases', hreads⟩ := foldl_decodeReading h hbases hdecoded packetReadings
  rw [decodePacket_eq]
  exact ⟨_, hfold, hout, hbases', fun k j c => hreads k j c (mem_packetReadings k j c)⟩

end Sys2Proof.Machine
end

section
/-! PROOFS for `40_host_commands.md`, second layer of R133 on a valid packet: one firing and one reading of the accumulator's loop as
`State.afterPacket` states them (R180 to R186, R200 to R206), and RECV put together from the validator, the decoder and that loop. -/

namespace Sys2Proof.Machine

/-! ### One reading -/

/-- R180 to R182: the two filters as the rules state them on numbers. -/
theorem filters_eq_survives (s : State) (d : Len) (a : Az) : (s.inRange d && !s.masked a) = s.survives d.toNat a.toNat := by
  simp only [State.inRange, State.masked, inWindow, State.survives, BitVec.le_def, BitVec.lt_def, Bool.not_or,
    Bool.decide_and, decide_not, Bool.and_assoc]

/-- The state with another transient state. -/
def State.withWork (s : State) (w : Work) : State := { s with work := w }

theorem doneWith_endCommand_withWork (s : State) (w : Work) : (s.withWork w).endCommand.DoneWith s := ⟨rfl, rfl⟩

/-- R204: APPEND offers the entry in hand to the sweep memory. -/
theorem append_eq_afterOffer (s : State) : append s = s.afterOffer s.work.entry := append_spec s

/-- R204: offering an entry neither reads nor writes the transient state. -/
theorem afterOffer_withWork (s : State) (e : SweepEntry) (w : Work) :
    (s.withWork w).afterOffer e = (s.afterOffer e).withWork w := by
  simp only [State.afterOffer, apply_ite (State.withWork · w)]
  rfl

/-- R39, R184 to R186: the sweep entry of reading (k, j, c) of a decoded packet. -/
def State.entryOf (s : State) (k : Fin 12) (j : Fin 2) (c : Fin 16) : SweepEntry where
  azKey := s.work.fir[firingIndex k j].az[c]
  point := pointOf s.cfg (s.work.fir[firingIndex k j].dist[c]).toNat (s.work.fir[firingIndex k j].az[c]).toNat
    (s.work.fir[firingIndex k j].int[c]) c (timeOf s.cfg s.work.ts.toNat k.val j.val c.val)

/-- R133, R180: a reading is dropped, or its entry is offered to the sweep memory; of the transient state neither the time nor the
decoded firings are written. -/
theorem processReading_spec {s : State} (hp : paramsOk s.cfg = true) (k : Fin 12) (j : Fin 2) (c : Fin 16) : ∃ w : Work,
    w.ts = s.work.ts ∧ w.fir = s.work.fir ∧ processReading s k j c =
      (if s.survives (s.work.fir[firingIndex k j].dist[c]).toNat (s.work.fir[firingIndex k j].az[c]).toNat
        then s.afterOffer (s.entryOf k j c) else s).withWork w := by
  unfold processReading; dsimp only
  rw [filters_spec, ← filters_eq_survives]
  generalize (s.inRange (s.work.fir[firingIndex k j].dist[c]) && !s.masked (s.work.fir[firingIndex k j].az[c])) = valid
  cases valid with
  | false => exact ⟨{ s.work with phase := .fltAz, k := k, j := j, c := c, valid := false }, rfl, rfl, rfl⟩
  | true =>
    obtain ⟨w, hstate, -, hts, hfir, -, -, -, -, hentry⟩ := transform_spec
      { s with work := { s.work with phase := .fltAz, k := k, j := j, c := c, valid := true } } k j c
    refine ⟨w, hts, hfir, ?_⟩
    rw [if_pos rfl, if_pos rfl, ← afterOffer_withWork, hstate, append_eq_afterOffer, hentry hp]
    rfl

/-! ### The boundary handling of one firing -/

/-- R202: FINALIZE emits the sweep unless it is the first boundary since reset, and FIRST_SWEEP is 0 afterwards either way. -/
theorem exists_finalize_eq (s : State) : ∃ q : Phase, finalize s =
    ({ s with firstSweep := false, out := s.out ++ (if s.firstSweep then [] else s.emission) } : State).enter q := by
  rw [finalize_spec]
  cases hfirst : s.firstSweep with
  | true =>
    rw [if_pos rfl, if_pos rfl, List.append_nil]
    exact ⟨s.work.phase, rfl⟩
  | false =>
    rw [if_neg Bool.false_ne_true, if_neg Bool.false_ne_true]
    refine ⟨if s.scanEn then .emitScan else if s.cloudEn then .emitBatch else s.work.phase, ?_⟩
    rw [← hfirst]
    rfl

/-- R203, R205: NEWSWEEP and the record of the base azimuth, wherever the sequencer stood before. -/
theorem recordAz_newsweep (u : State) (k : Fin 12) (j : Fin 2) : recordAz (newsweep (u.seek .newsweep k j 0)) = { u with
    sweep := [], sweepOvf := false, accState := .accumulating
    sweepStartTs := BitVec.ofNat 64 (firingTime u.cfg u.work.ts (firingIndex k j))
    lastAz := u.work.fir[firingIndex k j].fa
    work := { u.work with phase := .newsweep, k := k, j := j, c := 0 } } := rfl

/-- R202, R203, R205: FINALIZE, NEWSWEEP and the record of the base azimuth, wherever the sequencer stood before. -/
theorem recordAz_newsweep_finalize (u : State) (k : Fin 12) (j : Fin 2) :
    recordAz (newsweep ((finalize (u.seek .finalize k j 0)).seek .newsweep k j 0)) = { u with
      firstSweep := false, sweepOvf := false, sweep := [], accState := .accumulating
      sweepStartTs := BitVec.ofNat 64 (firingTime u.cfg u.work.ts (firingIndex k j))
      out := u.out ++ (if u.firstSweep then [] else u.emission)
      lastAz := u.work.fir[firingIndex k j].fa
      work := { u.work with phase := .newsweep, k := k, j := j, c := 0 } } := by
  obtain ⟨q, hfinalize⟩ := exists_finalize_eq (u.seek .finalize k j 0)
  rw [hfinalize, recordAz_newsweep]
  rfl

/-- R201: at a firing without a boundary. -/
theorem openFiring_of_not_crosses {s : State} {k : Fin 12} {j : Fin 2}
    (h : s.crosses s.work.fir[firingIndex k j].fa = false) : ∃ w : Work, w.ts = s.work.ts ∧ w.fir = s.work.fir ∧
    openFiring s k j = { s with lastAz := s.work.fir[firingIndex k j].fa, work := w } := by
  have hcross : (s.seek .boundary k j 0).crosses (s.seek .boundary k j 0).work.firing.fa = false := h
  unfold openFiring; dsimp only
  rw [boundary_spec, hcross, if_neg Bool.noConfusion]
  exact ⟨{ s.work with phase := .boundary, k := k, j := j, c := 0, boundary := false }, rfl, rfl, rfl⟩

/-- R201 to R203: at a firing with a boundary: the old sweep's events, none at the first boundary, then a new sweep. -/
theorem openFiring_of_crosses {s : State} {k : Fin 12} {j : Fin 2}
    (h : s.crosses s.work.fir[firingIndex k j].fa = true) : ∃ w : Work, w.ts = s.work.ts ∧ w.fir = s.work.fir ∧
    openFiring s k j = { s with
      firstSweep := false, sweepOvf := false, sweep := [], accState := .accumulating
      sweepStartTs := BitVec.ofNat 64 (firingTime s.cfg s.work.ts (firingIndex k j))
      out := s.out ++ (if s.firstSweep then [] else s.emission)
      lastAz := s.work.fir[firingIndex k j].fa, work := w } := by
  have hcross : (s.seek .boundary k j 0).crosses (s.seek .boundary k j 0).work.firing.fa = true := h
  unfold openFiring; dsimp only
  rw [boundary_spec, hcross, if_pos rfl, if_pos rfl, recordAz_newsweep_finalize]
  exact ⟨{ s.work with phase := .newsweep, k := k, j := j, c := 0, boundary := true }, rfl, rfl, rfl⟩

/-- R205: the boundary handling leaves the time and the decoded firings, and records the base azimuth. -/
theorem openFiring_keeps (s : State) (k : Fin 12) (j : Fin 2) : (openFiring s k j).work.ts = s.work.ts ∧
    (openFiring s k j).work.fir = s.work.fir ∧ (openFiring s k j).lastAz = s.work.fir[firingIndex k j].fa := by
  cases h : s.crosses s.work.fir[firingIndex k j].fa with
  | false =>
    obtain ⟨w, hts, hfir, hopen⟩ := openFiring_of_not_crosses h
    rw [hopen]
    exact ⟨hts, hfir, rfl⟩
  | true =>
    obtain ⟨w, hts, hfir, hopen⟩ := openFiring_of_crosses h
    rw [hopen]
    exact ⟨hts, hfir, rfl⟩

/-! ### What the loop of R133 carries along -/

/-- The loop has come from the decoded packet `s` to `t` between two operations of R133: the setup, the time and the decoded firings
are those of `s`, and the accumulator accumulates (R53 (a), R206). -/
structure Carries (s t : State) : Prop where
  setup : SameSetup s t
  accumulating : t.accState = .accumulating
  ts : t.work.ts = s.work.ts
  fir : t.work.fir = s.work.fir

theorem carries_openFiring {s t : State} (h : Carries s t) (k : Fin 12) (j : Fin 2) : Carries s (openFiring t k j) := by
  obtain ⟨hts, hfir, -⟩ := openFiring_keeps t k j
  exact ⟨h.setup.trans (grows_openFiring t k j).setup, openFiring_accState h.accumulating k j, hts.trans h.ts, hfir.trans h.fir⟩

theorem carries_processReading {s t : State} (h : Carries s t) (k : Fin 12) (j : Fin 2) (c : Fin 16) :
    Carries s (processReading t k j c) := by
  have ⟨hts, hfir⟩ : (processReading t k j c).work.ts = t.work.ts ∧ (processReading t k j c).work.fir = t.work.fir := by
    obtain ⟨w, -, hts, hfir, -, hdone | ⟨e, -, -, hdone⟩ | ⟨-, -, hdone⟩⟩ := processReading_cases t k j c
    · rw [hdone]; exact ⟨hts, hfir⟩
    · rw [hdone]; exact ⟨hts, hfir⟩
    · rw [hdone]; exact ⟨hts, hfir⟩
  exact ⟨h.setup.trans (grows_processReading t k j c).setup, (processReading_accState t k j c).trans h.accumulating,
    hts.trans h.ts, hfir.trans h.fir⟩

theorem carries_processFiring {s t : State} (h : Carries s t) (k : Fin 12) (j : Fin 2) : Carries s (processFiring t k j) :=
  List.foldlRecOn (motive := Carries s) channels _ (carries_openFiring h k j) fun _ ht c _ => carries_processReading ht k j c

/-- R205: after a firing LAST_AZ is its base azimuth. -/
theorem processFiring_lastAz_eq (s : State) (k : Fin 12) (j : Fin 2) :
    (processFiring s k j).lastAz = s.work.fir[firingIndex k j].fa :=
  List.foldlRecOn (motive := fun t : State => t.lastAz = s.work.fir[firingIndex k j].fa) channels _
    (openFiring_keeps s k j).2.2 fun t ht c _ => (processReading_lastAz t k j c).trans ht

/-- R205: after a packet LAST_AZ is the base azimuth of its last firing. -/
theorem accumulate_lastAz_eq {s : State} (h : s.accState = .accumulating) :
    (accumulate s).lastAz = s.work.fir[firingIndex 11 1].fa := by
  have hlast : firings = firings.dropLast ++ [(11, 1)] := by decide
  have hcarries : Carries s (firings.dropLast.foldl (fun s kj => processFiring s kj.1 kj.2) s) :=
    List.foldlRecOn (motive := Carries s) firings.dropLast _ ⟨SameSetup.refl s, h, rfl, rfl⟩
      fun t ht kj _ => carries_processFiring ht kj.1 kj.2
  unfold accumulate
  rw [hlast, List.foldl_append, List.foldl_cons, List.foldl_nil]
  refine (processFiring_lastAz_eq _ 11 1).trans ?_
  rw [hcarries.fir]

/-! ### The loop of R133 from the packet's bytes -/

/-- R160 to R168: the transient state holds the decoded packet. -/
structure State.Decoded (s : State) (p : List Byte) : Prop where
  ts : s.work.ts.toNat = deviceTimeOf p
  bases : ∀ (k : Fin 12) (j : Fin 2), s.work.fir[firingIndex k j].fa.toNat = baseOf p k.val j.val
  reads : ∀ (k : Fin 12) (j : Fin 2) (c : Fin 16), s.work.fir[firingIndex k j].Reads s.cfg s.distRes.toNat p k j c

/-- What the loop carries along is still the decoded packet. -/
theorem decoded_of_carries {s t : State} {p : List Byte} (hs : s.Decoded p) (h : Carries s t) : t.Decoded p where
  ts := by rw [h.ts]; exact hs.ts
  bases := by rw [h.fir]; exact hs.bases
  reads := by rw [h.fir, h.setup.cfg, h.setup.distRes]; exact hs.reads

/-- R200 to R205 from the packet's bytes: the boundary handling of one firing. -/
theorem openFiring_eq_afterBoundary {u : State} {w : Work} {p : List Byte} (hd : (u.withWork w).Decoded p)
    (hacc : u.accState = .accumulating) (k : Fin 12) (j : Fin 2) :
    ∃ w' : Work, openFiring (u.withWork w) k j = (u.afterBoundary p k j).withWork w' := by
  have hfa : w.fir[firingIndex k j].fa.toNat = baseOf p k.val j.val := hd.bases k j
  have hlast : BitVec.ofNat 21 (baseOf p k.val j.val) = w.fir[firingIndex k j].fa := by
    rw [← hfa, BitVec.ofNat_toNat, BitVec.setWidth_eq]
  have hstart : timeOf u.cfg (deviceTimeOf p) k.val j.val 0 = firingTime u.cfg w.ts (firingIndex k j) := by
    rw [← hd.ts, timeOf, Nat.zero_mul]; rfl
  have hcrosses : (u.withWork w).crosses w.fir[firingIndex k j].fa =
      decide (baseOf p k.val j.val + u.cfg.tol < u.lastAz.toNat) := by rw [← hfa]; rfl
  unfold State.afterBoundary; dsimp only
  by_cases hcross : baseOf p k.val j.val + u.cfg.tol < u.lastAz.toNat
  · rw [decide_eq_true hcross] at hcrosses
    obtain ⟨w', -, -, hopen⟩ := openFiring_of_crosses (s := u.withWork w) hcrosses
    refine ⟨w', ?_⟩
    rw [if_pos hcross, hlast, hstart, hopen, ← hacc]
    rfl
  · rw [decide_eq_false hcross] at hcrosses
    obtain ⟨w', -, -, hopen⟩ := openFiring_of_not_crosses (s := u.withWork w) hcrosses
    refine ⟨w', ?_⟩
    rw [if_neg hcross, hlast, hopen]
    rfl

/-- R180 to R186, R204 from the packet's bytes: one reading. -/
theorem processReading_eq_afterReading {u : State} {w : Work} {p : List Byte} (hp : paramsOk u.cfg = true)
    (hd : (u.withWork w).Decoded p) (k : Fin 12) (j : Fin 2) (c : Fin 16) :
    ∃ w' : Work, processReading (u.withWork w) k j c = (u.afterReading p k j c).withWork w' := by
  obtain ⟨w', -, -, hread⟩ := processReading_spec (s := u.withWork w) hp k j c
  have hreads : w.fir[firingIndex k j].Reads u.cfg u.distRes.toNat p k j c := hd.reads k j c
  have htime : w.ts.toNat = deviceTimeOf p := hd.ts
  refine ⟨w', hread.trans ?_⟩
  unfold State.afterReading; dsimp only
  rw [← hreads.az, ← hreads.dist, ← hreads.int, ← htime, BitVec.ofNat_toNat, BitVec.setWidth_eq, afterOffer_withWork,
    ← apply_ite (State.withWork · w)]
  rfl

/-- The loop has come from the decoded packet `s` to `t`, and what outlives the command is as in `u`. -/
def Follows (s t u : State) : Prop := Carries s t ∧ ∃ w : Work, t = u.withWork w

section
variable {s : State} {p : List Byte} (hp : paramsOk s.cfg = true) (hs : s.Decoded p)
include hp hs

theorem follows_processReading {t u : State} (h : Follows s t u) (k : Fin 12) (j : Fin 2) (c : Fin 16) :
    Follows s (processReading t k j c) (u.afterReading p k j c) := by
  obtain ⟨hc, w, rfl⟩ := h
  have hparams : paramsOk u.cfg = true := (congrArg paramsOk hc.setup.cfg).trans hp
  exact ⟨carries_processReading hc k j c, processReading_eq_afterReading hparams (decoded_of_carries hs hc) k j c⟩

/-- R133, R200: one firing. -/
theorem follows_processFiring {t u : State} (h : Follows s t u) (k : Fin 12) (j : Fin 2) : Follows s (processFiring t k j)
    (channels.foldl (fun u c => u.afterReading p k j c) (u.afterBoundary p k j)) := by
  obtain ⟨hc, w, rfl⟩ := h
  have hopen : Follows s (openFiring (u.withWork w) k j) (u.afterBoundary p k j) :=
    ⟨carries_openFiring hc k j, openFiring_eq_afterBoundary (decoded_of_carries hs hc) hc.accumulating k j⟩
  exact List.foldl_rel (r := Follows s) hopen fun c _ _ _ h => follows_processReading hp hs h k j c

/-- R133: the firings of the packet in order. -/
theorem follows_accumulate {t u : State} (h : Follows s t u) : Follows s (accumulate t)
    (firings.foldl (fun u kj => channels.foldl (fun u c => u.afterReading p kj.1 kj.2 c) (u.afterBoundary p kj.1 kj.2)) u) := by
  unfold accumulate
  exact List.foldl_rel (r := Follows s) h fun kj _ _ _ h => follows_processFiring hp hs h kj.1 kj.2

end

/-! ### RECV of a valid packet -/

/-- R155, R160: a valid packet, loaded and validated, is decoded: the reports of its rotations are added, and nothing else but the
transient state, which holds the packet, is written. -/
theorem exists_decodePacket_validate {s : State} {p : List Byte} (hvalid : packetValid s.cfg p) :
    (validate (s.loadPacket 1206 p)).busy = true ∧ ∃ w : Work,
    decodePacket (validate (s.loadPacket 1206 p)) = ({ s with out := s.out ++ rotationReports p } : State).withWork w ∧
    (({ s with out := s.out ++ rotationReports p } : State).withWork w).Decoded p := by
  have hlen : p.length = packetBytes := hvalid.1
  obtain ⟨w, hvalidate, hphase, hpkt⟩ := validate_of_packetValid (s := s.loadPacket 1206 p) rfl (holds_loadPacket s hlen) hvalid
  have hholds : w.Holds p := by unfold Work.Holds; rw [hpkt]; exact holds_loadPacket s hlen
  obtain ⟨x, ⟨q, k, j, c, hdecode⟩, hout, hbases, hreads⟩ :=
    decodePacket_spec (s := ({ s.loadPacket 1206 p with work := w } : State)) hholds
  rw [hvalidate]
  refine ⟨busy_iff.2 hphase, { w with
    phase := q, k := k, j := j, c := c, ts := x.ts, factory := x.factory, b := x.b, d := x.d, delta := x.delta, fir := x.fir },
    ?_, hbases.ts, hbases.bases, hreads⟩
  rw [hdecode, State.withDecoding, hout]
  rfl

/-- R133: RECV of a valid packet in RUN is the loop over the firings, from the decoded packet on. -/
theorem exists_receive_eq {s : State} (hmode : s.mode = .run) (hacc : s.accState = .accumulating) {p : List Byte}
    (hvalid : packetValid s.cfg p) (word : BitVec 48) : ∃ t : State,
    receive (s.accept word) 1206 p = (accumulate t).endCommand ∧ t.Decoded p ∧ t.cfg = s.cfg ∧
    Follows t t { s with out := s.out ++ rotationReports p } := by
  obtain ⟨hbusy, w, hdecode, hdecoded⟩ := exists_decodePacket_validate (s := s.accept word) hvalid
  refine ⟨_, ?_, hdecoded, rfl, ⟨SameSetup.refl _, hacc, rfl, rfl⟩, w, rfl⟩
  rw [receive_of_run (s := s.accept word) hmode, if_pos hbusy, processPacket, hdecode]

/-- Settles O16: the setup and the events by what every RECV keeps; LAST_AZ by the last firing of the loop; all that outlives the
command by following the loop from the packet's bytes. -/
theorem validPacketProcessed : Obligations.ValidPacketProcessed := by
  intro s d p hmode hacc hvalid
  have hgrows : Grows s (receive (s.accept (cmdWord 3 1206 d)) 1206 p) := (grows_work s _).trans (grows_receive _ _ _)
  obtain ⟨t, hreceive, hdecoded, hcfg, hstart⟩ := exists_receive_eq hmode hacc hvalid (cmdWord 3 1206 d)
  have hacct : t.accState = .accumulating := hstart.1.accumulating
  refine ⟨receive (s.accept (cmdWord 3 1206 d)) 1206 p, rfl, hgrows.setup, ?idle, ?accumulating, hgrows.out, ?lastAz,
    fun hp => ?after⟩
  case idle => rw [hreceive]; rfl
  case accumulating => rw [hreceive, endCommand_accState, accumulate_accState hacct]
  case lastAz =>
    rw [hreceive, endCommand_lastAz, accumulate_lastAz_eq hacct]
    exact hdecoded.bases 11 1
  case after =>
    obtain ⟨-, w, hloop⟩ := follows_accumulate (hcfg ▸ hp) hdecoded hstart
    rw [hreceive, hloop]
    exact doneWith_endCommand_withWork (s.afterPacket p) w

end Sys2Proof.Machine
end

section
/-! PROOFS for `41_validator.md`: the three checks taken one at a time (R151 to R153), a block that repeats the bank before it
(R95, R153), and a packet that VALIDATE rejects at its first bad block (R150, R154). -/

namespace Sys2Proof.Machine

/-! ### The three checks -/

/-- R43, R242: the command is over once the transient state holds nothing. -/
theorem doneWith_of_eq_idle {t u : State} (h : t = { u with work := Work.idle }) : t.DoneWith u := by
  rw [h]; exact ⟨rfl, rfl⟩

/-- Settles O18: VAL.SIZE compares PKT_LEN and reads nothing else. -/
theorem valSizeChecksLength : Obligations.ValSizeChecksLength := by
  intro s
  have hspec := valSize_spec (s.enter .valSize)
  have hinfo : BitVec.ofNat 32 s.work.pktLen.toNat = s.work.pktLen.setWidth 32 := BitVec.ofNat_toNat 32 _
  refine ⟨valSize (s.enter .valSize), rfl, fun hlen => ?passes, fun hlen => ?reports⟩
  case passes => rw [hspec.trans (if_pos hlen)]; rfl
  case reports => rw [hinfo]; exact doneWith_of_eq_idle (hspec.trans (if_neg hlen))

/-- R65, R95: the header of block k is the two bytes at 100k, little-endian. -/
theorem header_eq_of_bytes {w : Work} {k : Fin 12} {h : BitVec 16} (hbytes : h.toNat =
    (Memory.read w.pkt (100 * k.val)).toNat + 256 * (Memory.read w.pkt (100 * k.val + 1)).toNat) : w.header k = h :=
  BitVec.eq_of_toNat_eq ((header_toNat w k).trans hbytes.symm)

/-- Settles O19: the header VAL.HDR compares is the one its two bytes make. -/
theorem valHdrChecksSentinel : Obligations.ValHdrChecksSentinel := by
  intro s h hbytes
  have hheader : (s.enter .valHdr).work.header s.work.k = h := header_eq_of_bytes hbytes
  have hspec := valHdr_spec (s.enter .valHdr)
  rw [enter_work_k, hheader, enter_cfg] at hspec
  refine ⟨valHdr (s.enter .valHdr), rfl, fun hsentinel => ?passes, fun hunknown => ?reports⟩
  case passes => rw [hspec, if_neg fun hunknown => not_or.2 hunknown hsentinel]; rfl
  case reports => exact doneWith_of_eq_idle (hspec.trans (if_pos hunknown))

/-- Settles O20: block 0 has no block before it, every other block is compared with HDR_PREV. -/
theorem valAltChecksAlternation : Obligations.ValAltChecksAlternation := by
  intro s
  have hspec := valAlt_spec (s.enter .valAlt)
  refine ⟨valAlt (s.enter .valAlt), rfl, fun hpass => ?passes, fun hrepeat => ?reports⟩
  case passes =>
    have hnew : ¬ (0 < s.work.k.val ∧ s.work.hdr = s.work.hdrPrev) := by
      rintro ⟨hk, heq⟩
      exact hpass.elim hk.ne' (· heq)
    rw [hspec.trans (if_neg hnew)]; rfl
  case reports => exact doneWith_of_eq_idle (hspec.trans (if_pos hrepeat))

/-! ### One block -/

section
variable {s : State} {k : Fin 12}

/-- R152, R154: a block whose header is no sentinel. -/
theorem checkBlock_of_unknownHeader (hunknown : ¬ (s.work.header k = s.cfg.bankUpper ∨ s.work.header k = s.cfg.bankLower)) :
    checkBlock s k = { s with out := s.out ++ [.diag 2 (BitVec.ofNat 32 k.val)], work := Work.idle } :=
  (checkBlock_spec s k).trans (if_pos (not_or.1 hunknown))

/-- R153, R154: a block whose header is a sentinel, the same as that of the block before it. -/
theorem checkBlock_of_repeatedBank (hknown : s.work.header k = s.cfg.bankUpper ∨ s.work.header k = s.cfg.bankLower)
    (hk : 0 < k.val) (hrepeat : s.work.header k = s.work.hdrPrev) :
    checkBlock s k = { s with out := s.out ++ [.diag 3 (BitVec.ofNat 32 k.val)], work := Work.idle } := by
  rw [checkBlock_spec, if_neg fun hunknown => not_or.2 hunknown hknown, if_pos ⟨hk, hrepeat⟩]

end

/-- R153, R154: a block placed after one of the same bank ends the command; none of its fields is decoded. -/
theorem placeBlock_of_repeatedBank {s : State} {hdr : BitVec 16} (rot : BitVec 16) (rd : Vector Reading 32)
    (hm : Memory.wf s.work.pkt = true) (hk : s.work.k ≠ 0) (hbank : hdr = s.cfg.bankUpper ∨ hdr = s.cfg.bankLower)
    (hrepeat : s.work.hdrPrev = hdr) : placeBlock s hdr rot rd =
      { s with out := s.out ++ [.diag 3 (BitVec.ofNat 32 s.work.k.val)], work := Work.idle } := by
  have hheader : (s.withBlockBytes hdr rot rd).work.header s.work.k = hdr := header_of_block hm rfl
  have hcheck := checkBlock_of_repeatedBank (s := s.withBlockBytes hdr rot rd) (by rwa [hheader])
    (Fin.pos_iff_ne_zero.2 hk) (hheader.trans hrepeat.symm)
  have hended : (checkBlock (s.withBlockBytes hdr rot rd) s.work.k).busy = false := by rw [hcheck]; rfl
  exact (if_neg (Bool.eq_false_iff.1 hended)).trans hcheck

/-- Settles O49: both banks by `placeBlock_of_repeatedBank`. -/
theorem repeatedBankReported : Obligations.RepeatedBankReported := by
  intro s rot rd hm hk i hi
  have hplace {hdr : BitVec 16} (hbank : hdr = s.cfg.bankUpper ∨ hdr = s.cfg.bankLower) (hrepeat : s.work.hdrPrev = hdr) :
      (placeBlock s hdr rot rd).DoneWith { s with out := s.out ++ [.diag 3 (BitVec.ofNat 32 s.work.k.val)] } :=
    doneWith_of_eq_idle (placeBlock_of_repeatedBank rot rd hm hk hbank hrepeat)
  rcases hi with ⟨rfl, hupper⟩ | ⟨rfl, hlower⟩
  · exact ⟨_, rfl, hplace (.inl rfl) hupper⟩
  · exact ⟨_, rfl, hplace (.inr rfl) hlower⟩

/-! ### The first bad block of a packet -/

/-- R152: a header in the buffer is a sentinel exactly when the packet's bytes say so. -/
theorem Work.Holds.headerKnown_iff {w : Work} {p : List Byte} (h : w.Holds p) (cfg : Config) (k : Fin 12) :
    headerKnown cfg p k.val ↔ w.header k = cfg.bankUpper ∨ w.header k = cfg.bankLower := by
  rw [headerKnown, ← h.header k, BitVec.toNat_inj, BitVec.toNat_inj]

theorem blocks_eq_take_append (k : Fin 12) : blocks = blocks.take k.val ++ k :: blocks.drop (k.val + 1) := by
  revert k; decide

/-- R150: VALIDATE of a packet whose blocks before k pass comes to block k with the header before it in HDR_PREV; a failure there
ends it. -/
theorem validate_of_firstBlocksPass {s : State} {p : List Byte} (hlen : s.work.pktLen.toNat = packetBytes)
    (h : s.work.Holds p) (k : Fin 12) (hpass : ∀ i < k.val, blockPasses s.cfg p i) : ∃ w : Work, w.Holds p ∧
    (0 < k.val → w.hdrPrev.toNat = headerOf p (k.val - 1)) ∧
    ((checkBlock { s with work := w } k).busy = false → validate s = checkBlock { s with work := w } k) := by
  have hsize : valSize (s.seek .valSize 0 0 0) = s.seek .valSize 0 0 0 := (valSize_spec _).trans (if_pos hlen)
  obtain ⟨w, hfold, hphase, hpkt, hprev⟩ :=
    checkBlocks_of_blockPasses (s := s.seek .valSize 0 0 0) rfl h k.isLt.le hpass
  refine ⟨w, by unfold Work.Holds; rw [hpkt]; exact h, hprev, fun hfail => ?_⟩
  unfold validate
  rw [hsize, blocks_eq_take_append k, List.foldl_append, hfold, List.foldl_cons, if_pos (busy_iff.2 hphase)]
  exact foldl_checkBlock_idle _ hfail

/-- R150, R154: a packet that fails in block k, the blocks before it having passed, leaves VALIDATE with one report of the check
that failed. -/
theorem validate_of_firstBadBlock {s : State} {p : List Byte} (hlen : s.work.pktLen.toNat = packetBytes)
    (h : s.work.Holds p) (k : Fin 12) (hpass : ∀ i < k.val, blockPasses s.cfg p i) (hfail : ¬ blockPasses s.cfg p k.val) :
    (¬ headerKnown s.cfg p k.val →
      validate s = { s with out := s.out ++ [.diag 2 (BitVec.ofNat 32 k.val)], work := Work.idle }) ∧
    (headerKnown s.cfg p k.val →
      validate s = { s with out := s.out ++ [.diag 3 (BitVec.ofNat 32 k.val)], work := Work.idle }) := by
  obtain ⟨w, hholds, hprev, hvalidate⟩ := validate_of_firstBlocksPass hlen h k hpass
  have hsentinel := hholds.headerKnown_iff s.cfg k
  constructor
  · intro hunknown
    have hcheck := checkBlock_of_unknownHeader (s := { s with work := w }) (hunknown ∘ hsentinel.2)
    exact (hvalidate (by rw [hcheck]; rfl)).trans hcheck
  · intro hknown
    obtain ⟨hk, hrepeat⟩ : 0 < k.val ∧ headerOf p k.val = headerOf p (k.val - 1) := by
      simpa [blockPasses, hknown] using hfail
    have heq : w.header k = w.hdrPrev :=
      BitVec.eq_of_toNat_eq ((hholds.header k).trans (hrepeat.trans (hprev hk).symm))
    have hcheck := checkBlock_of_repeatedBank (s := { s with work := w }) (hsentinel.1 hknown) hk heq
    exact (hvalidate (by rw [hcheck]; rfl)).trans hcheck

/-- R133, R154: RECV in RUN of a packet that VALIDATE rejects ends with the report and changes nothing else. -/
theorem receive_of_validate_rejects {s : State} (hmode : s.mode = .run) {len : BitVec 12} {p : List Byte} {e : Event}
    (hreject : validate (s.loadPacket len p) = { s.loadPacket len p with out := s.out ++ [e], work := Work.idle }) :
    (receive s len p).DoneWith { s with out := s.out ++ [e] } := by
  rw [receive_of_run hmode, hreject, if_neg Bool.noConfusion]
  exact ⟨rfl, rfl⟩

/-- Settles O15: the loop of VALIDATE comes to block k, and the check it fails there decides the report. -/
theorem malformedPacketDiscarded : Obligations.MalformedPacketDiscarded := by
  intro s d p k hmode hlen hk hpass hfail
  have hvalidate := validate_of_firstBadBlock (s := (s.accept (cmdWord 3 1206 d)).loadPacket 1206 p) rfl
    (holds_loadPacket _ hlen) ⟨k, hk⟩ hpass hfail
  exact ⟨receive (s.accept (cmdWord 3 1206 d)) 1206 p, rfl,
    fun hunknown => receive_of_validate_rejects (s := s.accept _) hmode (hvalidate.1 hunknown),
    fun hknown => receive_of_validate_rejects (s := s.accept _) hmode (hvalidate.2 hknown)⟩

end Sys2Proof.Machine
end

section
/-! PROOFS for `42_decoder_interpolator.md`: the operations of the decoder taken one at a time (R161 to R167), DECODE of a packet as a
closed form of its bytes (R160), what DECODE leaves alone (R168 (b)), and the order of corrections and times (R168 (c), R185). -/

namespace Sys2Proof.Machine

/-! ### Writing one entry of an indexed file -/

theorem getElem_set_same {α : Type} {n : Nat} (v : Vector α n) (i : Fin n) (x : α) : (v.set i x i.isLt)[i] = x :=
  (getElem_set_fin v i i x).trans (if_pos rfl)

theorem getElem_set_other {α : Type} {n : Nat} (v : Vector α n) {i j : Fin n} (h : j ≠ i) (x : α) :
    (v.set i x i.isLt)[j] = v[j] :=
  (getElem_set_fin v i j x).trans (if_neg h.symm)

/-- What holds of the entry written and of every entry kept holds of the whole file. -/
theorem forall_getElem_set {α : Type} {n : Nat} {v : Vector α n} {i : Fin n} {x : α} {P : Fin n → α → Prop} (hnew : P i x)
    (hkept : ∀ j ≠ i, P j v[j]) (j : Fin n) : P j (v.set i x i.isLt)[j] := by
  by_cases h : j = i
  · rw [h, getElem_set_same]; exact hnew
  · rw [getElem_set_other v h]; exact hkept j h

/-- R16, R40: writing channel c of one column of firing g changes that reading of the column and no other. -/
theorem column_set {α : Type} (column : Firing → Vector α 16) {fir : Vector Firing 24} {g : Fin 24} {c : Fin 16} {f : Firing}
    {x : α} (h : column f = (column fir[g]).set c x) :
    (column (fir.set g f)[g])[c] = x ∧
    ∀ (g' : Fin 24) (c' : Fin 16), (g', c') ≠ (g, c) → (column (fir.set g f)[g'])[c'] = (column fir[g'])[c'] := by
  refine ⟨by rw [getElem_set_same, h, getElem_set_same], fun g' c' hne => ?_⟩
  by_cases hg : g' = g
  · have hc : c' ≠ c := fun hc => hne (by rw [hg, hc])
    rw [hg, getElem_set_same, h, getElem_set_other _ hc]
  · rw [getElem_set_other fir hg]

/-! ### The operations on the temporaries -/

/-- Settles O22: TSLD writes the two fields, each the number its bytes make. -/
theorem tsldLoadsTrailer : Obligations.TsldLoadsTrailer := fun s =>
  ⟨tsld (s.enter .tsld), rfl, rfl, tsField_toNat s.work, factoryField_toNat s.work⟩

/-- Settles O23: the rotation ROTLD reads is the number its two bytes make, and the info it reports is one number. -/
theorem rotldClampsAndReports : Obligations.RotldClampsAndReports := by
  intro s r hbytes
  have hrot : ((s.enter .rotld).work.rot s.work.k).toNat = r := (rot_toNat _ _).trans hbytes.symm
  have hspec := rotld_spec (s.enter .rotld)
  simp only [enter_work_k, rotation_info_eq_ofNat, hrot] at hspec
  have hb := congrArg (·.work.b) hspec
  refine ⟨rotld (s.enter .rotld), rfl, ?frame, ?clamped, fun k hk => ?kept, ?reported⟩
  case frame => rw [hspec]; rfl
  case clamped =>
    rw [hb, getElem_set_same]
    split
    next hgt => exact (Nat.min_eq_right hgt.le).symm
    next hle => rw [hrot, Nat.min_eq_left (not_lt.1 hle)]
  case kept => rw [hb]; exact getElem_set_other _ hk _
  case reported =>
    rw [hspec]
    by_cases hr : r ≤ 35999
    · rw [if_pos hr, if_neg (not_lt.2 hr)]; rfl
    · rw [if_neg hr, if_pos (not_le.1 hr)]; rfl

/-- Settles O24: the block after this one is there, or this is block 11 and `delta_spec` takes D[10]. -/
theorem deltaIsAdvanceToNextBlock : Obligations.DeltaIsAdvanceToNextBlock := by
  intro s
  obtain ⟨v, hspec, hnext, hlast⟩ := delta_spec (s.enter .delta)
  have hd : (delta (s.enter .delta)).work.d = s.work.d.set s.work.k v := congrArg (·.work.d) hspec
  refine ⟨delta (s.enter .delta), rfl, ?frame, fun h => ?next, fun h => ?last, fun k hk => ?kept⟩
  case frame => rw [hspec]; rfl
  case next => rw [hd, getElem_set_same]; exact hnext h
  case last => rw [hd, getElem_set_same]; exact hlast (by rw [enter_work_k]; omega)
  case kept => rw [hd, getElem_set_other _ hk]

/-- Settles O26: the firing after this one is there, or this is firing 23. -/
theorem fdeltaIsAdvanceToNextFiring : Obligations.FdeltaIsAdvanceToNextFiring := by
  intro s
  obtain ⟨v, hspec, hnext, hlast⟩ := fdelta_spec (s.enter .fdelta)
  have hdelta : (fdelta (s.enter .fdelta)).work.delta = s.work.delta.set s.work.g v := congrArg (·.work.delta) hspec
  refine ⟨fdelta (s.enter .fdelta), rfl, ?frame, fun h => ?next, fun h => ?last, fun g hg => ?kept⟩
  case frame => rw [hspec]; rfl
  case next => rw [hdelta, getElem_set_same]; exact hnext h
  case last => rw [hdelta, getElem_set_same]; exact hlast (show ¬ s.work.g.val + 1 < 24 by omega)
  case kept => rw [hdelta, getElem_set_other _ hg]

/-! ### The operations on the Firing file -/

/-- Settles O25: the two firings of the block are different entries, and a rotation in range leaves both results below a turn. -/
theorem firbaseGivesBaseAzimuths : Obligations.FirbaseGivesBaseAzimuths := by
  intro s
  obtain ⟨f0, f1, hspec, hbase0, hbase1, hfa0, hfa1⟩ := firbase_spec (s.enter .firbase)
  simp only [enter_work_k, enter_work_b, enter_work_d, enter_work_fir] at hspec hbase0 hbase1 hfa0 hfa1
  have hfir : (firbase (s.enter .firbase)).work.fir =
      (s.work.fir.set (firingIndex s.work.k 0) f0).set (firingIndex s.work.k 1) f1 := congrArg (·.work.fir) hspec
  have hfirst : (firbase (s.enter .firbase)).work.fir[firingIndex s.work.k 0] = f0 := by
    rw [hfir, getElem_set_other _ (firingIndex_ne _), getElem_set_same]
  have hsecond : (firbase (s.enter .firbase)).work.fir[firingIndex s.work.k 1] = f1 := by
    rw [hfir, getElem_set_same]
  refine ⟨firbase (s.enter .firbase), rfl, ?frame, by rw [hfirst, hfa0], by rw [hsecond, hfa1], fun hrange => ?legal, ?fields,
    fun g h0 h1 => ?kept⟩
  case frame => rw [hspec]; rfl
  case legal =>
    refine Fin.forall_fin_two.2 ⟨?_, ?_⟩
    · rw [hfirst, hfa0]; omega
    · rw [hsecond, hfa1]; unfold fullTurn; omega
  case fields =>
    rw [hfir]
    exact forall_getElem_set (P := fun g (f : Firing) => f = { s.work.fir[g] with fa := f.fa }) hbase1 fun g _ =>
      forall_getElem_set (P := fun g (f : Firing) => f = { s.work.fir[g] with fa := f.fa }) hbase0 (fun _ _ => rfl) g
  case kept => rw [hfir, getElem_set_other _ h1, getElem_set_other _ h0]

/-- R165: CHDEC(g, c) writes one reading of the columns DIST and INT of firing g. -/
theorem chdec_enter_fir (s : State) : ∃ (f : Firing) (v : Len),
    (chdec (s.enter .chdec)).work.fir = s.work.fir.set s.work.g f ∧
    f.fa = s.work.fir[s.work.g].fa ∧ f.az = s.work.fir[s.work.g].az ∧
    f.dist = s.work.fir[s.work.g].dist.set s.work.c v ∧
    v.toNat = (s.work.rawDist s.work.k s.work.j s.work.c).toNat * s.distRes.toNat ∧
    f.int = s.work.fir[s.work.g].int.set s.work.c (s.work.rawInt s.work.k s.work.j s.work.c) := by
  obtain ⟨v, hv, hspec⟩ := chdec_seek_eq s s.work.k s.work.j s.work.c
  have hfir := congrArg (·.work.fir) hspec
  exact ⟨_, v, hfir, rfl, rfl, rfl, hv, rfl⟩

/-- R166: INTERP(g, c) writes one reading of the column AZ of firing g. -/
theorem interp_enter_fir (s : State) : ∃ (f : Firing) (a : Az),
    (interp (s.enter .interp)).work.fir = s.work.fir.set s.work.g f ∧
    f = { s.work.fir[s.work.g] with az := f.az } ∧
    f.az = s.work.fir[s.work.g].az.set s.work.c a ∧
    a.toNat = (s.work.fir[s.work.g].fa.toNat + correction s.cfg s.work.delta[s.work.g] s.work.c) % fullTurn := by
  obtain ⟨a, ha, hspec⟩ := interp_seek_eq s s.work.k s.work.j s.work.c
  have hfir := congrArg (·.work.fir) hspec
  exact ⟨_, a, hfir, rfl, rfl, ha⟩

/-- Settles O27: the reading written holds the packet's bytes at its offset, and the other columns are kept. -/
theorem chdecReadsDistanceAndIntensity : Obligations.ChdecReadsDistanceAndIntensity := by
  intro s o hoffset
  obtain ⟨f, v, hfir, hfa, haz, hdist, hv, hint⟩ := chdec_enter_fir s
  obtain ⟨hdistNew, hdistKept⟩ := column_set Firing.dist hdist
  obtain ⟨hintNew, hintKept⟩ := column_set Firing.int hint
  refine ⟨chdec (s.enter .chdec), rfl, rfl, ?dist, ?int, ?columns, fun g c hne => ?kept⟩
  case dist => rw [hfir, hdistNew, hv, rawDist_toNat, hoffset]; rfl
  case int => rw [hfir, hintNew, rawInt_eq, hoffset]; rfl
  case columns =>
    rw [hfir]
    exact forall_getElem_set (P := fun g (f : Firing) => f.fa = s.work.fir[g].fa ∧ f.az = s.work.fir[g].az) ⟨hfa, haz⟩
      fun _ _ => ⟨rfl, rfl⟩
  case kept => rw [hfir]; exact ⟨hdistKept g c hne, hintKept g c hne⟩

/-- Settles O28: the reading written is the base azimuth plus the correction, and the other columns are kept. -/
theorem interpAdvancesAzimuth : Obligations.InterpAdvancesAzimuth := by
  intro s
  obtain ⟨f, a, hfir, hcolumns, haz, ha⟩ := interp_enter_fir s
  obtain ⟨hnew, hkept⟩ := column_set Firing.az haz
  refine ⟨interp (s.enter .interp), rfl, rfl, ?az, ?columns, fun g c hne => ?kept⟩
  case az => rw [hfir, hnew, ha]; rfl
  case columns =>
    rw [hfir]
    exact forall_getElem_set (P := fun g (f : Firing) => f = { s.work.fir[g] with az := f.az }) hcolumns fun _ _ => rfl
  case kept => rw [hfir]; exact hkept g c hne

/-! ### DECODE -/

/-- R163: the first firing of a block starts at the block's rotation, which is below a turn. -/
theorem baseOf_zero (p : List Byte) (k : Nat) : baseOf p k 0 = 32 * clampedOf p k := by
  have hclamped : clampedOf p k ≤ 35999 := Nat.min_le_right _ _
  unfold baseOf
  omega

/-- Settles O29: DECODE of the loaded packet, its base azimuths written out. -/
theorem decodeClosedForm : Obligations.DecodeClosedForm := by
  intro s p hlen t
  obtain ⟨x, ⟨q, k', j', c', ht⟩, -, hx, hreads⟩ := decodePacket_spec (holds_loadPacket s hlen)
  have hts : t.work.ts = x.ts := congrArg (·.work.ts) ht
  have hfactory : t.work.factory = x.factory := congrArg (·.work.factory) ht
  have hb : t.work.b = x.b := congrArg (·.work.b) ht
  have hd : t.work.d = x.d := congrArg (·.work.d) ht
  have hdelta : t.work.delta = x.delta := congrArg (·.work.delta) ht
  have hfir : t.work.fir = x.fir := congrArg (·.work.fir) ht
  rw [hts, hfactory, hb, hd, hdelta, hfir]
  refine ⟨⟨hx.ts, hx.factory⟩, fun k => ⟨hx.rotations k, hx.advances k⟩, fun k => ⟨?first, hx.bases k 1⟩, hx.deltas,
    fun k j c => ⟨?az, (hreads k j c).dist, congrArg BitVec.toNat (hreads k j c).int⟩⟩
  case first => exact (hx.bases k 0).trans (baseOf_zero p k.val)
  case az => rw [hx.bases]; exact (hreads k j c).az

/-- R44: the bytes of a packet buffer, in address order. -/
def Work.bytes (w : Work) : List Byte := (List.range packetBytes).map (Memory.read w.pkt)

theorem holds_bytes (w : Work) : w.Holds w.bytes := by
  intro a ha
  simp [Work.bytes, ha]

/-- R161: the reports of a packet, from the buffer that holds it. -/
theorem Work.Holds.rotationReports {w : Work} {p : List Byte} (h : w.Holds p) : rotationReports p =
    (blocks.filter fun k => decide (35999 < (w.rot k).toNat)).map fun k =>
      .diag 4 (BitVec.ofNat 32 (65536 * (w.rot k).toNat + k.val)) := by
  simp only [h.rot]
  rfl

/-- Settles O30: every buffer holds some packet, and DECODE adds that packet's reports. -/
theorem decodeReportsOnlyRotations : Obligations.DecodeReportsOnlyRotations := by
  intro s
  have hbytes := holds_bytes s.work
  obtain ⟨x, hdecoded, hout, -⟩ := decodePacket_spec hbytes
  have hpkt := hdecoded.pkt
  obtain ⟨q, k, j, c, ht⟩ := hdecoded
  refine ⟨decodePacket s, rfl, ?_, hpkt⟩
  rw [← hbytes.rotationReports, ← hout, ht]
  rfl

/-! ### Order within a firing and within a packet -/

/-- R166: a later channel is corrected no less. -/
theorem correction_mono (cfg : Config) (advance : Az) {c c' : Fin 16} (h : c ≤ c') :
    correction cfg advance c ≤ correction cfg advance c' := by
  have hc : c.val ≤ c'.val := h
  unfold correction
  gcongr

/-- R168 (c): channels that all fire within the firing time are corrected by no more than the firing's advance. -/
theorem correction_le_advance {cfg : Config} (h : 15 * cfg.tDsr ≤ cfg.tFiring) (advance : Az) (c : Fin 16) :
    correction cfg advance c ≤ advance.toNat := by
  have hc : c.val ≤ 15 := Nat.lt_succ_iff.1 c.isLt
  unfold correction
  refine Nat.div_le_of_le_mul ?_
  calc advance.toNat * c.val * cfg.tDsr
      = c.val * cfg.tDsr * advance.toNat := by ring
    _ ≤ 15 * cfg.tDsr * advance.toNat := by gcongr
    _ ≤ cfg.tFiring * advance.toNat := by gcongr

/-- R185: a later channel of the same firing is no earlier. -/
theorem channelTime_mono (cfg : Config) (ts : BitVec 32) (g : Fin 24) {c c' : Fin 16} (h : c ≤ c') :
    firingTime cfg ts g + c.val * cfg.tDsr ≤ firingTime cfg ts g + c'.val * cfg.tDsr := by
  have hc : c.val ≤ c'.val := h
  gcongr

/-- R185: every channel fires before the next firing starts, if the last one does. -/
theorem channelTime_le_firingTime {cfg : Config} (h : 15 * cfg.tDsr ≤ cfg.tFiring) (ts : BitVec 32) {g g' : Fin 24}
    (hg : g < g') (c : Fin 16) : firingTime cfg ts g + c.val * cfg.tDsr ≤ firingTime cfg ts g' := by
  have hc : c.val ≤ 15 := Nat.lt_succ_iff.1 c.isLt
  have hnext : g.val + 1 ≤ g'.val := hg
  have hchannel : c.val * cfg.tDsr ≤ cfg.tFiring := (Nat.mul_le_mul_right _ hc).trans h
  unfold firingTime
  calc ts.toNat * cfg.tsScale + g.val * cfg.tFiring + c.val * cfg.tDsr
      ≤ ts.toNat * cfg.tsScale + g.val * cfg.tFiring + cfg.tFiring := by gcongr
    _ = ts.toNat * cfg.tsScale + (g.val + 1) * cfg.tFiring := by ring
    _ ≤ ts.toNat * cfg.tsScale + g'.val * cfg.tFiring := by gcongr

/-- Settles O36: the last channel of firing 0 and the first of firing 1 are in order only under the condition. -/
theorem orderNeedsChannelsWithinFiring : Obligations.OrderNeedsChannelsWithinFiring := by
  refine fun cfg => ⟨fun advance c c' hc => ⟨correction_mono cfg advance hc, fun h => correction_le_advance h advance c'⟩,
    fun ts => ⟨fun h g g' c c' hle => ?ordered, fun hordered => ?within⟩⟩
  case ordered =>
    rcases hle with hg | ⟨rfl, hc⟩
    · exact (channelTime_le_firingTime h ts hg c).trans (Nat.le_add_right _ _)
    · exact channelTime_mono cfg ts g hc
  case within =>
    have h : ts.toNat * cfg.tsScale + 0 * cfg.tFiring + 15 * cfg.tDsr ≤
        ts.toNat * cfg.tsScale + 1 * cfg.tFiring + 0 * cfg.tDsr := hordered 0 1 15 0 (.inl (by decide))
    omega

end Sys2Proof.Machine
end

section
/-! PROOFS for `43_filter_transform.md`: the operations of the filter and the transformer taken one at a time (R181 to R185), and
what one reading leaves once it has gone through all of them and APPEND (R133, R180, R186, R204). -/

namespace Sys2Proof.Machine

/-! ### The filters -/

/-- R181 on numbers. -/
theorem inRange_eq (s : State) (d : Len) :
    s.inRange d = decide (s.minRange.toNat ≤ d.toNat ∧ d.toNat ≤ s.maxRange.toNat) :=
  (Bool.decide_and _ _).symm

/-- R182 on numbers. -/
theorem masked_iff {s : State} {a : Az} : s.masked a = true ↔
    (s.angleDisableMin.toNat ≤ a.toNat ∧ a.toNat < s.angleDisableMax.toNat) ∨
    (s.angle3DisableMin.toNat ≤ a.toNat ∧ a.toNat < s.angle3DisableMax.toNat) := by
  simp only [State.masked, inWindow, Bool.or_eq_true, Bool.and_eq_true, decide_eq_true_eq, BitVec.le_def, BitVec.lt_def]

/-- FLT.RANGE writes VALID and nothing else. -/
theorem fltRange_enter (s : State) : (fltRange (s.enter .fltRange)).EqButPhase { s with work := { s.work with
    valid := s.inRange (s.work.fir[s.work.g].dist[s.work.c]) } } := rfl

/-- FLT.AZ writes VALID and nothing else. -/
theorem fltAz_enter (s : State) : (fltAz (s.enter .fltAz)).EqButPhase { s with work := { s.work with
    valid := s.work.valid && !s.masked (s.work.fir[s.work.g].az[s.work.c]) } } := rfl

/-- Settles O31: VALID is `State.inRange`, which compares the distance as a number. -/
theorem rangeFilterIsInclusive : Obligations.RangeFilterIsInclusive := by
  intro s
  refine ⟨fltRange (s.enter .fltRange), rfl, ?_⟩
  rw [← inRange_eq]
  exact fltRange_enter s

/-- Settles O32: VALID is cleared where the azimuth is masked, and conjoined with 1 where it is not. -/
theorem azimuthFilterClearsInsideWindows : Obligations.AzimuthFilterClearsInsideWindows := by
  rintro s a rfl
  have hvalid := fltAz_enter s
  refine ⟨fltAz (s.enter .fltAz), rfl, fun hinside => ?inside, fun houtside => ?outside⟩
  case inside =>
    rwa [masked_iff.2 hinside, Bool.not_true, Bool.and_false] at hvalid
  case outside =>
    have hmasked : s.masked (s.work.fir[s.work.g].az[s.work.c]) = false :=
      Bool.eq_false_iff.2 fun h => (masked_iff.1 h).elim houtside.1 houtside.2
    rwa [hmasked, Bool.not_false, Bool.and_true] at hvalid

/-! ### The transform -/

/-- R8, R14, R184: a value within a length, times a ROM entry and rounded, is within that length again and so loses no bit as a
coordinate. -/
theorem toInt_of_eq_rnd16 {q : Coord} {d : Len} {v r : Int} (hq : q = BitVec.ofInt 32 (rnd16 (v * r)))
    (hv : |v| ≤ d.toNat) (hr : r.natAbs ≤ trigOne) : q.toInt = rnd16 (v * r) ∧ |q.toInt| ≤ d.toNat := by
  rw [Int.abs_eq_natAbs] at hv ⊢
  have hbound : (rnd16 (v * r)).natAbs ≤ d.toNat := (rnd16_natAbs_le v r hr).trans (Int.ofNat_le.1 hv)
  rw [hq, toInt_ofInt_coord hbound]
  exact ⟨rfl, Int.ofNat_le.2 hbound⟩

/-- Settles O33: the remainder is below the size of the table. -/
theorem azidxRoundsToHundredth : Obligations.AzidxRoundsToHundredth := by
  intro s
  obtain ⟨i, hspec, hidx⟩ := azidx_spec (s.enter .azidx)
  refine ⟨azidx (s.enter .azidx), rfl, ?frame, ?index, ?bound⟩ <;> rw [hspec]
  case frame => rfl
  case index => exact hidx
  case bound => exact hidx.trans_lt (Nat.mod_lt _ (by decide))

/-- Settles O34: HR is bounded by the distance, so X and Y, made from HR, are too; Z is made from the distance itself. -/
theorem xformIsExact : Obligations.XformIsExact := by
  intro s hp
  obtain ⟨hr, x, y, z, hspec, ehr, ex, ey, ez⟩ := xform_spec (s.enter .xform)
  obtain ⟨haltSin, haltCos⟩ := altRom_natAbs_le hp s.work.c
  obtain ⟨hazSin, hazCos⟩ := azRom_natAbs_le hp s.work.idx.toNat
  obtain ⟨hrExact, hrBound⟩ := toInt_of_eq_rnd16 ehr (Nat.abs_cast _).le haltCos
  obtain ⟨xExact, xBound⟩ := toInt_of_eq_rnd16 ex hrBound hazCos
  obtain ⟨yExact, yBound⟩ := toInt_of_eq_rnd16 ey hrBound hazSin
  obtain ⟨zExact, zBound⟩ := toInt_of_eq_rnd16 ez (Nat.abs_cast _).le haltSin
  refine ⟨xform (s.enter .xform), rfl, ?frame, ?exact⟩ <;> rw [hspec]
  case frame => rfl
  case exact => exact ⟨hrExact, xExact, yExact, zExact, hrBound, xBound, yBound, zBound⟩

/-- R12, R185: no time of a packet loses a bit. -/
theorem toNat_ofNat_firingTime {cfg : Config} (h : paramsOk cfg = true) (ts : BitVec 32) (g : Fin 24) (c : Fin 16) :
    (BitVec.ofNat 64 (firingTime cfg ts g + c.val * cfg.tDsr)).toNat = firingTime cfg ts g + c.val * cfg.tDsr := by
  rw [BitVec.toNat_ofNat]
  exact Nat.mod_eq_of_lt ((firingTime_lt h ts g c).trans (by decide))

/-- Settles O35: the time lies below 2^49, so its 64 bits hold it whole. -/
theorem tstampNeverWraps : Obligations.TstampNeverWraps := by
  intro s hp
  obtain ⟨v, hspec, rfl⟩ := tstamp_spec (s.enter .tstamp)
  have hexact := toNat_ofNat_firingTime hp s.work.ts s.work.g s.work.c
  refine ⟨tstamp (s.enter .tstamp), rfl, ?frame, ?exact, ?bound⟩ <;> rw [hspec]
  case frame => rfl
  case exact => exact hexact
  case bound => exact hexact.trans_lt (firingTime_lt hp _ _ _)

/-! ### One reading through the filters, the transform and APPEND -/

/-- R180 to R182 as one condition on numbers. -/
theorem survives_iff {s : State} {d a : Nat} : s.survives d a = true ↔
    s.minRange.toNat ≤ d ∧ d ≤ s.maxRange.toNat ∧
    ¬ (s.angleDisableMin.toNat ≤ a ∧ a < s.angleDisableMax.toNat) ∧
    ¬ (s.angle3DisableMin.toNat ≤ a ∧ a < s.angle3DisableMax.toNat) := by
  simp only [State.survives, Bool.and_eq_true, decide_eq_true_eq, and_assoc]

/-- R204: there is room unless the capacity is reached. -/
theorem hasRoom_iff {s : State} : s.hasRoom = true ↔ ∀ cap, s.cfg.sweepCap = some cap → s.sweep.length < cap := by
  unfold State.hasRoom
  cases s.cfg.sweepCap with
  | none => simp
  | some cap => simp

/-- R204: with room the entry is stored. -/
theorem afterOffer_of_hasRoom {s : State} (h : s.hasRoom = true) (e : SweepEntry) :
    s.afterOffer e = { s with sweep := s.sweep ++ [e] } := if_pos h

/-- R204: without room the entry is lost, and the first loss of a sweep is reported. -/
theorem afterOffer_of_firstLoss {s : State} (h : ¬ s.hasRoom = true) (hovf : s.sweepOvf = false) (e : SweepEntry) :
    s.afterOffer e = { s with sweepOvf := true, out := s.out ++ [.diag 9 0] } :=
  (if_neg h).trans (if_neg (Bool.eq_false_iff.1 hovf))

/-- R204: a later loss of the same sweep is silent. -/
theorem afterOffer_of_laterLoss {s : State} (h : ¬ s.hasRoom = true) (hovf : s.sweepOvf = true) (e : SweepEntry) :
    s.afterOffer e = s := (if_neg h).trans (if_pos hovf)

/-- What the entry of reading (k, j, c) holds under every parameter set, and that it is the exact one under an accepted one. -/
structure SweepEntry.Records (e : SweepEntry) (s : State) (k : Fin 12) (j : Fin 2) (c : Fin 16) : Prop where
  /-- R39 -/
  azKey : e.azKey = s.work.fir[firingIndex k j].az[c]
  /-- R186 -/
  channel : e.point.channel = BitVec.ofNat 4 c.val
  /-- R186 -/
  intensity : e.point.intensity = s.work.fir[firingIndex k j].int[c]
  /-- R183 to R185 -/
  eq_entryOf : paramsOk s.cfg = true → e = s.entryOf k j c

/-- R39, R186: the entry in hand when the sequencer stands at reading (k, j, c). -/
theorem records_entry {s : State} {w : Work} {k : Fin 12} {j : Fin 2} {c : Fin 16} (hfir : w.fir = s.work.fir)
    (hk : w.k = k) (hj : w.j = j) (hc : w.c = c) (hexact : paramsOk s.cfg = true → w.entry = s.entryOf k j c) :
    w.entry.Records s k j c := by
  subst hk hj hc
  have hfiring : w.firing = s.work.fir[firingIndex w.k w.j] := congrArg (·[firingIndex w.k w.j]) hfir
  exact ⟨congrArg (·.az[w.c]) hfiring, rfl, congrArg (·.int[w.c]) hfiring, hexact⟩

/-- R133, R180: under every parameter set, where `processReading_spec` asks for an accepted one, a reading is dropped or its entry
is offered to the sweep memory. -/
theorem processReading_offers (s : State) (k : Fin 12) (j : Fin 2) (c : Fin 16) :
    ∃ (w : Work) (e : SweepEntry), e.Records s k j c ∧ processReading s k j c =
      (if s.survives (s.work.fir[firingIndex k j].dist[c]).toNat (s.work.fir[firingIndex k j].az[c]).toNat
        then s.afterOffer e else s).withWork w := by
  unfold processReading; dsimp only
  rw [filters_spec, ← filters_eq_survives]
  generalize (s.inRange (s.work.fir[firingIndex k j].dist[c]) && !s.masked (s.work.fir[firingIndex k j].az[c])) = valid
  obtain ⟨w, hstate, -, -, hfir, -, hk, hj, hc, hentry⟩ := transform_spec
    { s with work := { s.work with phase := .fltAz, k := k, j := j, c := c, valid := valid } } k j c
  have hrecords : w.entry.Records s k j c := records_entry hfir hk hj hc hentry
  cases valid with
  | false => exact ⟨{ s.work with phase := .fltAz, k := k, j := j, c := c, valid := false }, w.entry, hrecords, rfl⟩
  | true =>
    refine ⟨w, w.entry, hrecords, ?_⟩
    rw [if_pos rfl, if_pos rfl, ← afterOffer_withWork, hstate, append_eq_afterOffer]
    rfl

/-- R12: the entry's time is the exact one. -/
theorem entryOf_tstamp {s : State} (hp : paramsOk s.cfg = true) (k : Fin 12) (j : Fin 2) (c : Fin 16) :
    (s.entryOf k j c).point.tstamp.toNat = timeOf s.cfg s.work.ts.toNat k.val j.val c.val :=
  toNat_ofNat_firingTime hp s.work.ts (firingIndex k j) c

/-- Settles O43: a reading that does not survive is not offered; one that survives is, and SWEEP has room or is full. -/
theorem droppedReadingLeavesNoTrace : Obligations.DroppedReadingLeavesNoTrace := by
  intro s k j c d a kept t
  obtain ⟨w, e, he, ht⟩ := processReading_offers s k j c
  replace ht : t = _ := ht
  refine ⟨fun hdropped => ?dropped, fun hkept hroom => ?stored, fun cap hkept hcap hfull => ?lost⟩
  case dropped =>
    rw [if_neg (mt survives_iff.1 hdropped)] at ht
    rw [ht]; rfl
  case stored =>
    rw [if_pos (survives_iff.2 hkept), afterOffer_of_hasRoom (hasRoom_iff.2 hroom)] at ht
    refine ⟨e, by rw [ht]; rfl, congrArg BitVec.toNat he.azKey, he.channel, he.intensity, fun hp => ?_⟩
    rw [he.eq_entryOf hp]
    exact ⟨entryOf_tstamp hp k j c, rfl⟩
  case lost =>
    have hnoRoom : ¬ s.hasRoom = true := fun h => absurd (hasRoom_iff.1 h cap hcap) (not_lt.2 hfull)
    rw [if_pos (survives_iff.2 hkept)] at ht
    refine ⟨fun hfirst => ?first, fun hlater => ?later⟩
    case first => rw [afterOffer_of_firstLoss hnoRoom hfirst] at ht; rw [ht]; rfl
    case later => rw [afterOffer_of_laterLoss hnoRoom hlater] at ht; rw [ht]; rfl

end Sys2Proof.Machine
end

section
/-! PROOFS for `44_sweep_accumulator.md`: the operations of the accumulator taken one at a time (R201 to R204), and the boundary
handling of one firing put together from them (R200, R205). -/

namespace Sys2Proof.Machine

/-! ### The boundary test -/

/-- R201 on numbers, the sum without a wrap. -/
theorem crosses_iff {s : State} {fa : Az} : s.crosses fa = true ↔ fa.toNat + s.cfg.tol < s.lastAz.toNat :=
  decide_eq_true_iff

/-- R201 on numbers: a decrease of TOL or less, or none, is no boundary. -/
theorem crosses_eq_false_iff {s : State} {fa : Az} : s.crosses fa = false ↔ s.lastAz.toNat ≤ fa.toNat + s.cfg.tol := by
  rw [← Bool.not_eq_true, crosses_iff, not_lt]

/-- BOUNDARY writes its variable and, on a boundary, ACC_STATE; nothing else. -/
theorem boundary_enter (s : State) : (boundary (s.enter .boundary)).EqButPhase { s with
    accState := if s.crosses s.work.fir[s.work.g].fa then .boundaryJustCrossed else s.accState
    work := { s.work with boundary := s.crosses s.work.fir[s.work.g].fa } } := by
  rw [boundary_spec]
  rfl

/-- Settles O38: the variable is `State.crosses`, which compares on numbers. -/
theorem boundaryNeedsMoreThanTolerance : Obligations.BoundaryNeedsMoreThanTolerance := by
  intro s
  have hboundary := boundary_enter s
  refine ⟨boundary (s.enter .boundary), rfl, fun hmore => ?crossed, fun hwithin => ?within⟩
  case crossed => rwa [crosses_iff.2 hmore, if_pos rfl] at hboundary
  case within => rwa [crosses_eq_false_iff.2 hwithin, if_neg Bool.false_ne_true] at hboundary

/-! ### The end of a sweep and the start of the next -/

/-- FINALIZE adds the events of the sweep, none at the first boundary, and leaves FIRST_SWEEP 0; nothing else. -/
theorem finalize_enter (s : State) : (finalize (s.enter .finalize)).EqButPhase { s with
    firstSweep := false, out := s.out ++ (if s.firstSweep then [] else s.emission) } := by
  obtain ⟨q, hfinalize⟩ := exists_finalize_eq (s.enter .finalize)
  rw [hfinalize]
  rfl

/-- Settles O39: without a first boundary pending, FIRST_SWEEP is 0 already. -/
theorem finalizeSuppressesOnlyOnce : Obligations.FinalizeSuppressesOnlyOnce := by
  intro s
  have hfinalize := finalize_enter s
  refine ⟨finalize (s.enter .finalize), rfl, fun hfirst => ?first, fun hlater => ?later⟩
  case first => rwa [hfirst, if_pos rfl, List.append_nil] at hfinalize
  case later =>
    rw [hlater, if_neg Bool.false_ne_true] at hfinalize
    rwa [hlater]

/-- R12, R203: the start time of a sweep, that of a firing's first channel, loses no bit. -/
theorem toNat_ofNat_sweepStart {cfg : Config} (h : paramsOk cfg = true) (ts : BitVec 32) (g : Fin 24) :
    (BitVec.ofNat 64 (firingTime cfg ts g)).toNat = firingTime cfg ts g := by
  simpa using toNat_ofNat_firingTime h ts g 0

/-- Settles O40: NEWSWEEP writes the four fields by definition, and the time it writes is exact. -/
theorem newsweepStartsEmpty : Obligations.NewsweepStartsEmpty := fun s hp =>
  ⟨newsweep (s.enter .newsweep), rfl, rfl, toNat_ofNat_sweepStart hp s.work.ts s.work.g⟩

/-! ### The sweep memory -/

/-- APPEND offers the entry of the reading in hand to the sweep memory and does nothing else. -/
theorem append_enter (s : State) : (append (s.enter .append)).EqButPhase (s.afterOffer s.work.entry) := by
  have happend : append (s.enter .append) = (s.afterOffer s.work.entry).withWork (s.enter .append).work :=
    (append_eq_afterOffer _).trans (afterOffer_withWork s _ _)
  have hwork : (s.afterOffer s.work.entry).work = s.work := by
    rw [← append_eq_afterOffer, append_work]
  rw [happend, State.EqButPhase, hwork]
  rfl

/-- Settles O41: the three clauses are the three outcomes of an offer. -/
theorem appendStoresOrLoses : Obligations.AppendStoresOrLoses := by
  intro s room hroom
  replace hroom : room = s.hasRoom := hroom
  have happend := append_enter s
  refine ⟨append (s.enter .append), rfl, fun hstored => ?stored, fun ⟨hfull, hfirst⟩ => ?first,
    fun ⟨hfull, hlater⟩ => ?later⟩
  case stored =>
    rwa [afterOffer_of_hasRoom (hroom.symm.trans hstored)] at happend
  case first =>
    rwa [afterOffer_of_firstLoss (Bool.eq_false_iff.1 (hroom.symm.trans hfull)) hfirst] at happend
  case later =>
    rwa [afterOffer_of_laterLoss (Bool.eq_false_iff.1 (hroom.symm.trans hfull)) hlater] at happend

/-! ### The boundary handling of one firing -/

/-- Settles O42: NEWSWEEP brings ACC_STATE back to the value the firing found it at, so no trace of the boundary is left there. -/
theorem firingOpensNewSweepAtBoundary : Obligations.FiringOpensNewSweepAtBoundary := by
  intro s k j hacc
  refine ⟨fun hwithin => ?within, fun hmore => ?crossed⟩
  case within =>
    obtain ⟨w, -, -, hopen⟩ := openFiring_of_not_crosses (crosses_eq_false_iff.2 hwithin)
    rw [hopen]
  case crossed =>
    obtain ⟨w, -, -, hopen⟩ := openFiring_of_crosses (crosses_iff.2 hmore)
    rw [hopen, hacc]

end Sys2Proof.Machine
end

section
/-! PROOFS for `45_output_assembler.md`: what EMIT.BATCH and EMIT.SCAN append (R221, R222), and what a scan line holds: the
insertion sort of the model is stable (log 22), and each entry of the sweep is on the line of its own channel and on no other. -/

namespace Sys2Proof.Machine

/-! ### One line -/

/-- R222: a line is the channel's entries in another order. -/
theorem scanLine_perm (sweep : List SweepEntry) (ch : Ch) :
    (scanLine sweep ch).Perm (sweep.filter fun e => e.point.channel == ch) :=
  List.perm_insertionSort _ _

/-- R222: a line is in rising azimuth. -/
theorem scanLine_sorted (sweep : List SweepEntry) (ch : Ch) :
    (scanLine sweep ch).Pairwise fun e e' => e.azKey ≤ e'.azKey :=
  have : Std.Total fun e e' : SweepEntry => e.azKey ≤ e'.azKey := ⟨fun e e' => Nat.le_total e.azKey.toNat e'.azKey.toNat⟩
  have : IsTrans SweepEntry fun e e' => e.azKey ≤ e'.azKey := ⟨fun _ _ _ => Nat.le_trans⟩
  List.pairwise_insertionSort _ _

/-- R222, log 22: the sort is stable. The entries of one azimuth are in order already, so the sort keeps them as a sublist; and it
adds none to them. -/
theorem insertionSort_filter_azKey (l : List SweepEntry) (a : Az) :
    (l.insertionSort fun e e' => e.azKey ≤ e'.azKey).filter (fun e => e.azKey == a) = l.filter fun e => e.azKey == a := by
  have hsorted : (l.filter fun e => e.azKey == a).Pairwise fun e e' => e.azKey ≤ e'.azKey := by
    refine List.pairwise_of_forall_mem_list fun e he e' he' => ?_
    rw [eq_of_beq (List.mem_filter.1 he).2, eq_of_beq (List.mem_filter.1 he').2]
    exact Nat.le_refl _
  have hkept := (List.sublist_insertionSort hsorted List.filter_sublist).filter fun e => e.azKey == a
  simp only [List.filter_filter, Bool.and_self] at hkept
  exact (hkept.eq_of_length ((List.perm_insertionSort _ l).filter _).length_eq.symm).symm

/-! ### The lines of several channels -/

/-- The lines of distinct channels hold the entries of those channels between them, each entry once. -/
theorem flatMap_scanLine_perm (sweep : List SweepEntry) {chs : List Ch} (hdistinct : chs.Nodup) :
    (chs.flatMap fun ch => scanLine sweep ch).Perm (sweep.filter fun e => e.point.channel ∈ chs) := by
  induction chs with
  | nil => simp
  | cons ch chs ih =>
    obtain ⟨hnew, hdistinct⟩ := List.nodup_cons.1 hdistinct
    have hsplit := List.filter_append_perm (fun e => e.point.channel == ch)
      (sweep.filter fun e => e.point.channel ∈ ch :: chs)
    have hthis : ∀ e ∈ sweep, (e.point.channel == ch && decide (e.point.channel ∈ ch :: chs)) =
        (e.point.channel == ch) := fun e _ => by
      by_cases h : e.point.channel = ch <;> simp [h]
    have hothers : ∀ e ∈ sweep, (!(e.point.channel == ch) && decide (e.point.channel ∈ ch :: chs)) =
        decide (e.point.channel ∈ chs) := fun e _ => by
      by_cases h : e.point.channel = ch <;> simp [h, hnew]
    rw [List.filter_filter, List.filter_filter, List.filter_congr hthis, List.filter_congr hothers] at hsplit
    exact ((scanLine_perm sweep ch).append (ih hdistinct)).trans hsplit

theorem channelNumbers_eq : channelNumbers = [0, 1, 2, 3, 4, 5, 6, 7, 8, 9, 10, 11, 12, 13, 14, 15] := by decide

theorem channelNumbers_nodup : channelNumbers.Nodup := by decide

theorem mem_channelNumbers : ∀ ch : Ch, ch ∈ channelNumbers := by decide

/-- Settles O46: stability gives the order within a key, and the sixteen channels are all there are. -/
theorem scanLinesPartitionSweep : Obligations.ScanLinesPartitionSweep := by
  intro sweep
  refine ⟨fun ch => ⟨scanLine_sorted sweep ch, fun a => ?stable⟩, ?partition⟩
  case stable =>
    rw [scanLine, insertionSort_filter_azKey, List.filter_filter]
    exact List.filter_congr fun e _ => Bool.and_comm _ _
  case partition =>
    have hlines := flatMap_scanLine_perm sweep channelNumbers_nodup
    rwa [List.filter_eq_self.2 fun e _ => decide_eq_true (mem_channelNumbers e.point.channel)] at hlines

/-! ### The two emissions -/

/-- Settles O44: EMIT.BATCH is one `State.emit`, after its phase is entered. -/
theorem batchCarriesWholeSweep : Obligations.BatchCarriesWholeSweep := fun s =>
  ⟨emitBatch (s.enter .emitBatch), rfl, rfl⟩

/-- EMIT.SCAN adds the line of the selected channel, or all sixteen lines, and does nothing else. -/
theorem emitScan_enter (s : State) : (emitScan (s.enter .emitScan)).EqButPhase { s with
    out := s.out ++
      (if s.singleLayer then [scanEvent s.sweep s.activeCh] else channelNumbers.map (scanEvent s.sweep)) } := by
  rw [emitScan_spec]
  rfl

/-- Settles O45: SINGLE_LAYER chooses between the two lists of events. -/
theorem scanEmitsSelectedOrAllLines : Obligations.ScanEmitsSelectedOrAllLines := by
  intro s
  have hscan := emitScan_enter s
  refine ⟨emitScan (s.enter .emitScan), rfl, fun hsingle => ?single, fun hall => ?all⟩
  case single => rwa [State.singleLayer, hsingle, if_pos rfl] at hscan
  case all => rwa [State.singleLayer, hall, if_neg Bool.false_ne_true, channelNumbers_eq] at hscan

end Sys2Proof.Machine
end

section
/-! PROOFS for `60_exceptions.md`: the nine diagnostics as rows, each by its class (R230, R242), and IDLE (R250). -/

namespace Sys2Proof.Machine

/-- Settles O8: IDLE is the identity by definition, and is what a step with nothing pending runs. -/
theorem idleKeepsAllState : Obligations.IdleKeepsAllState := fun _ =>
  ⟨rfl, step_of_waiting⟩

/-! ### The numbers the rows report -/

/-- R101: OP is what stands above A and D. -/
theorem toNat_cmdOp (w : BitVec 48) : (cmdOp w).toNat = w.toNat / 2 ^ 44 := by
  rw [cmdOp, BitVec.extractLsb'_toNat, Nat.shiftRight_eq_div_pow]
  exact Nat.mod_eq_of_lt (Nat.div_lt_of_lt_mul w.isLt)

/-- R101: OP and A, read as one number, are what stands above D. -/
theorem toNat_cmdOp_cmdA (w : BitVec 48) : 4096 * (cmdOp w).toNat + (cmdA w).toNat = w.toNat / 2 ^ 32 := by
  have hA : (cmdA w).toNat = w.toNat / 2 ^ 32 % 4096 := by
    rw [cmdA, BitVec.extractLsb'_toNat, Nat.shiftRight_eq_div_pow]
  rw [toNat_cmdOp, hA]
  omega

theorem info_badSize (s : State) : s.info .badSize = BitVec.ofNat 32 s.work.pktLen.toNat :=
  (BitVec.ofNat_toNat _ _).symm

theorem info_azOutOfRange (s : State) :
    s.info .azOutOfRange = BitVec.ofNat 32 (65536 * (s.work.rot s.work.k).toNat + s.work.k.val) :=
  rotation_info_eq_ofNat _ _

/-- R230: any command word is one made of its own OP, A and D. -/
theorem info_badCmd (s : State) : s.info .badCmd = BitVec.ofNat 32 (s.work.cmd.toNat / 2 ^ 32) := by
  have haccept := info_badCmd_accept s (cmdOp s.work.cmd) (cmdA s.work.cmd) (cmdD s.work.cmd)
  rwa [cmdWord_fields, toNat_cmdOp_cmdA] at haccept

theorem info_cfgLocked (s : State) : s.info .cfgLocked = BitVec.ofNat 32 (s.work.cmd.toNat / 2 ^ 44) := by
  rw [← toNat_cmdOp]
  exact (BitVec.ofNat_toNat _ _).symm

/-! ### The rows -/

/-- R242: the row of a cause that ends the command. -/
theorem exec_endsCommand {s : State} {c : Cause} (hclass : causeClass c = .endsCommand) {info : BitVec 32}
    (hinfo : s.info c = info) :
    ∃ t, exec c.instr s = .next t ∧ t.DoneWith { s with out := s.out ++ [.diag c.code info] } :=
  ⟨s.raise c, exec_cause c s, doneWith_raise hclass hinfo⟩

/-- R242: the row of a cause after which processing continues. -/
theorem exec_continues {s : State} {c : Cause} (hclass : causeClass c = .continues) {info : BitVec 32}
    (hinfo : s.info c = info) : exec c.instr s = .next { s with out := s.out ++ [.diag c.code info] } := by
  rw [exec_cause, raise_continues hclass, hinfo]

/-- R242, R245: the row of a fatal cause. -/
theorem exec_fatal {s : State} {c : Cause} (hclass : causeClass c = .fatal) {info : BitVec 32} (hinfo : s.info c = info) :
    ∃ t, exec c.instr s = .next t ∧
      t.DoneWith { s with mode := .failed, out := s.out ++ [.diag c.code info] } :=
  ⟨s.raise c, exec_cause c s, by rw [raise_fatal hclass, hinfo]; exact ⟨rfl, rfl⟩⟩

/-- Settles O47: each row by the class of its cause, with the info its cause records. -/
theorem diagnosticsActByClass : Obligations.DiagnosticsActByClass := fun s =>
  ⟨exec_endsCommand (c := .badSize) rfl (info_badSize s),
    exec_endsCommand (c := .badHeader) rfl rfl,
    exec_endsCommand (c := .badAlternation) rfl rfl,
    exec_continues (c := .azOutOfRange) rfl (info_azOutOfRange s),
    exec_fatal (c := .configError) rfl (configErrors_eq s),
    exec_endsCommand (c := .notRunning) rfl rfl,
    exec_endsCommand (c := .badCmd) rfl (info_badCmd s),
    exec_endsCommand (c := .cfgLocked) rfl (info_cfgLocked s),
    exec_continues (c := .sweepOverflow) rfl rfl⟩

end Sys2Proof.Machine
end
